-- ==== Sys2Proof/Word.lean ====
section
/-! DEFINITION. The word types of the block (00_scope.md R5, R8): a Word is an unsigned 32-bit value;
and the operand wires of the ALU (30_encoding.md R110). -/

namespace Sys2Proof

/-- An unsigned 32-bit word, an integer in [0, 2^32) (R8). -/
abbrev Word := BitVec 32

/-- A byte of a message or of a digest (45_host_reference.md; the block itself sees words only). -/
abbrev Byte := BitVec 8

/-- The ALU's operand wires: at most five Words (R131) and one rotate or shift amount 0..31 (R110). -/
structure AluIn where
  x1 : Word
  x2 : Word
  x3 : Word
  x4 : Word
  x5 : Word
  n  : Fin 32
deriving DecidableEq, Repr

/-- Every operand wire at zero. -/
def AluIn.zero : AluIn := { x1 := 0#32, x2 := 0#32, x3 := 0#32, x4 := 0#32, x5 := 0#32, n := 0 }

end Sys2Proof
end

