-- ==== Sys2Proof/Config.lean ====
section
/-! DEFINITION. What one instance of the block fixes: the two OPEN parameters TRACE_CAP and BASE
(00_scope.md R6, 92_eei_decisions.md D2, D14). They are data carried in every State, which no step changes, so
that a statement about every state holds for every instance. -/

namespace Sys2Proof

/-- The parameters of one instance, in a form that admits legal values only:
TRACE_CAP is an integer with 1 <= TRACE_CAP <= 65536, and BASE a multiple of 256 (R6). -/
structure Config where
  /-- TRACE_CAP - 1. -/
  traceCapPred : Fin 65536
  /-- BASE / 256. -/
  basePage     : Nat
deriving DecidableEq, Repr

/-- TRACE_CAP: the number of block records of the trace storage (10_state.md R48). -/
def Config.traceCap (c : Config) : Nat := c.traceCapPred.val + 1

/-- BASE: the byte address of the register window (20_memory.md R80). -/
def Config.base (c : Config) : Nat := 256 * c.basePage

/-- The instance State.reset stands for: TRACE_CAP = 4, the value the spec's own vectors and programs assume
(95_test_vectors.md), and BASE = 0. DESIGN CHOICE (log 2). -/
def Config.vectors : Config := { traceCapPred := 3, basePage := 0 }

end Sys2Proof
end

