-- ==== Sys2Proof/Machine/State.lean ====
section
/-! DEFINITION. The state of the block (10_state.md R20 to R37), the events the environment still has to deliver,
the reasons a step can stop, and the state after reset (R55). -/

namespace Sys2Proof.Machine

open Sys2Proof

/-- STATE, the 2-bit sequencer state (R28). -/
inductive Phase where
  | idle | ready | busy | done
deriving DecidableEq, Repr

/-- ERR, the only codes it ever takes (R31, 60_exceptions.md R301; codes 6 to 15 are never written). -/
inductive ErrCode where
  | none | msgTooLarge | traceCapacity | badSequence | busy | illegalCmd
deriving DecidableEq, Repr

/-- The PADINFO latch (R33). Its one_bit and len_field_bits are the constants 1 and 64 and need no storage. -/
structure PadInfo where
  dataBits    : BitVec 64
  zeroPadBits : BitVec 9
  totalBits   : BitVec 65
  blockCount  : BitVec 56
deriving DecidableEq, Repr

/-- The 28 stored bits of TRIDX (R36, R51); bits [15:12] are not stored. -/
structure TrIdx where
  block : BitVec 16
  field : BitVec 4
  sect  : BitVec 2
  index : BitVec 6
deriving DecidableEq, Repr

/-- An entry inside one block record of the trace storage (44_trace.md R251): an initial word, a schedule word, or
a field of a RoundState. -/
inductive TraceAddr where
  | initial (t : Fin 16)
  | sched   (t : Fin 64)
  | round   (i : Fin 64) (fld : Fin 13)
deriving DecidableEq, Repr

/-- One word of the trace storage with its place in it. -/
abbrev TraceCell := Nat × Word

/-- The values of the elements that reset leaves unspecified (R38, R55): a free draw of the environment. -/
structure Draw where
  v       : Vector Word 8
  t1      : Word
  t2      : Word
  w       : Vector Word 64
  blk     : Vector Word 16
  hash    : Vector Word 8
  padinfo : PadInfo
  trace   : List TraceCell
deriving DecidableEq, Repr

/-- What the environment does next (00_scope.md R12, 20_memory.md R82). `port` is a host access at the block's
port: the 7 bits of format B and the WDATA lines (30_encoding.md R101). `bus` is a host access spelled by its byte
address on the bus. `core` is a turn of the sequencer. `reset` is the reset input (70_reset_and_hazards.md R340),
with the draw of what it leaves unspecified. `alu` drives the ALU's function select and operand wires, and is no
host access (log 6). -/
inductive Input where
  | port  (code : BitVec 7) (wdata : Word)
  | bus   (we : Bool) (addr : Nat) (wdata : Word)
  | core
  | reset (draw : Draw)
  | alu   (fn : BitVec 4) (ops : AluIn)
deriving DecidableEq, Repr

/-- The whole state. -/
structure State where
  /-- TRACE_CAP and BASE, hardwired per instance (R48, 00_scope.md R6). -/
  cfg      : Config
  /-- The working registers a..h (R21). -/
  v        : Vector Word 8
  /-- The temporaries (R22). -/
  t1       : Word
  t2       : Word
  /-- The schedule file W (R23). -/
  w        : Vector Word 64
  /-- The block buffer BLK (R24). -/
  blk      : Vector Word 16
  /-- The hash state HASH (R25). -/
  hash     : Vector Word 8
  /-- STATE (R28). -/
  phase    : Phase
  /-- MSTEP, the micro-step counter (R29). -/
  mstep    : BitVec 7
  /-- TRACE_ON (R30). -/
  traceOn  : Bool
  /-- ERR (R31). -/
  err      : ErrCode
  /-- MSGLEN (R32). -/
  msglen   : BitVec 64
  /-- The PADINFO latch (R33). -/
  padinfo  : PadInfo
  /-- BLKCOUNT and BLKDONE (R34). -/
  blkcount : BitVec 64
  blkdone  : BitVec 64
  /-- TRIDX (R36). -/
  tridx    : TrIdx
  /-- The trace storage (R37), in the canonical form of Trace.wf (log 9). -/
  trace    : List TraceCell
  /-- THE MODEL'S OWN: the events still to come, first one first (log 3). -/
  inputs   : List Input
  /-- THE MODEL'S OWN: the RDATA lines, the word the latest read returned (R101, log 5). -/
  rdata    : Word
  /-- THE MODEL'S OWN: the ALU's output lines (log 6). -/
  aluOut   : Word
deriving DecidableEq, Repr

/-- Why the machine stops with a fault: never. The block has no trap, and 93_implementation_defined.md says
"No behaviour of the block is treated as `fault` or `stuck`". -/
inductive Fault where
deriving DecidableEq, Repr

/-- Why a step has no meaning. -/
inductive Refusal where
  /-- An instruction without a meaning yet; exec's refused arms raise it. No arm of this model does. Safe. -/
  | notModelled (mnemonic : String)
  /-- The fetch raises it for a byte address that is outside the window or not a multiple of 4: it "spells no
  access and has no step" (20_memory.md R77). Safe: the port cannot carry it. -/
  | noSuchAccess (addr : Nat)
  /-- The fetch raises it for a reserved format-U word (30_encoding.md R108, unreachable). Safe. -/
  | reservedMicroOp (word : BitVec 8)
  /-- The fetch raises it for a reserved format-F code (R109, never selected). Safe. -/
  | reservedAluFunction (fn : BitVec 4)
  /-- The fetch raises it for a BUSY sequencer whose MSTEP is above 113, a value R29 excludes (log 7). Safe. -/
  | noMicroOp (mstep : BitVec 7)
deriving DecidableEq, Repr

/-- The outcome of an instruction or of a step. -/
abbrev Result := Host.Outcome State Fault Refusal

/-- The values State.reset names for the elements R55 leaves unspecified: all zero. DESIGN CHOICE (log 1). -/
def Draw.zero : Draw :=
  { v := Vector.replicate 8 0#32, t1 := 0#32, t2 := 0#32, w := Vector.replicate 64 0#32
    blk := Vector.replicate 16 0#32, hash := Vector.replicate 8 0#32
    padinfo := { dataBits := 0#64, zeroPadBits := 0#9, totalBits := 0#65, blockCount := 0#56 }
    trace := [] }

/-- The machine right after reset (R55, R340): the control state at 0, the elements R55 leaves unspecified at the
values of Draw.zero (log 1), the instance of Config.vectors (log 2), and no event pending. -/
def State.reset : State :=
  { cfg := Config.vectors
    v := Draw.zero.v, t1 := Draw.zero.t1, t2 := Draw.zero.t2, w := Draw.zero.w
    blk := Draw.zero.blk, hash := Draw.zero.hash
    phase := .idle, mstep := 0#7, traceOn := false, err := .none
    msglen := 0#64, padinfo := Draw.zero.padinfo, blkcount := 0#64, blkdone := 0#64
    tridx := { block := 0#16, field := 0#4, sect := 0#2, index := 0#6 }
    trace := Draw.zero.trace, inputs := [], rdata := 0#32, aluOut := 0#32 }

end Sys2Proof.Machine
end

