-- ==== Sys2Proof/Machine/Consts.lean ====
section
/-! DEFINITION. The hardwired constants: ID (10_state.md R41), H0 (R27) and the round constants K
(42_compress.md R180). No access and no micro-op writes them. -/

namespace Sys2Proof.Machine

open Sys2Proof

/-- ID, ASCII "S256" (R41). -/
def idValue : Word := 0x53323536#32

/-- The initial hash state H0[0..7] (R27). -/
def h0 : Vector Word 8 :=
  #v[0x6a09e667#32, 0xbb67ae85#32, 0x3c6ef372#32, 0xa54ff53a#32, 0x510e527f#32, 0x9b05688c#32, 0x1f83d9ab#32, 0x5be0cd19#32]

/-- The rows of R180's table, eight constants a row. -/
def kRow0 : List Word :=
  [0x428a2f98#32, 0x71374491#32, 0xb5c0fbcf#32, 0xe9b5dba5#32, 0x3956c25b#32, 0x59f111f1#32, 0x923f82a4#32, 0xab1c5ed5#32]
def kRow8 : List Word :=
  [0xd807aa98#32, 0x12835b01#32, 0x243185be#32, 0x550c7dc3#32, 0x72be5d74#32, 0x80deb1fe#32, 0x9bdc06a7#32, 0xc19bf174#32]
def kRow16 : List Word :=
  [0xe49b69c1#32, 0xefbe4786#32, 0x0fc19dc6#32, 0x240ca1cc#32, 0x2de92c6f#32, 0x4a7484aa#32, 0x5cb0a9dc#32, 0x76f988da#32]
def kRow24 : List Word :=
  [0x983e5152#32, 0xa831c66d#32, 0xb00327c8#32, 0xbf597fc7#32, 0xc6e00bf3#32, 0xd5a79147#32, 0x06ca6351#32, 0x14292967#32]
def kRow32 : List Word :=
  [0x27b70a85#32, 0x2e1b2138#32, 0x4d2c6dfc#32, 0x53380d13#32, 0x650a7354#32, 0x766a0abb#32, 0x81c2c92e#32, 0x92722c85#32]
def kRow40 : List Word :=
  [0xa2bfe8a1#32, 0xa81a664b#32, 0xc24b8b70#32, 0xc76c51a3#32, 0xd192e819#32, 0xd6990624#32, 0xf40e3585#32, 0x106aa070#32]
def kRow48 : List Word :=
  [0x19a4c116#32, 0x1e376c08#32, 0x2748774c#32, 0x34b0bcb5#32, 0x391c0cb3#32, 0x4ed8aa4a#32, 0x5b9cca4f#32, 0x682e6ff3#32]
def kRow56 : List Word :=
  [0x748f82ee#32, 0x78a5636f#32, 0x84c87814#32, 0x8cc70208#32, 0x90befffa#32, 0xa4506ceb#32, 0xbef9a3f7#32, 0xc67178f2#32]

/-- The round constants K[0..63] in order (R180). -/
def kTable : List Word := kRow0 ++ kRow8 ++ kRow16 ++ kRow24 ++ kRow32 ++ kRow40 ++ kRow48 ++ kRow56

/-- K[i] (R180). -/
def k (i : Fin 64) : Word := kTable.getD i.val 0#32

end Sys2Proof.Machine
end

