-- ==== Sys2Proof/Machine/Operands.lean ====
section
/-! DEFINITION. Operand assembly: the halves of the 64-bit registers (20_memory.md R75, 30_encoding.md R105), the
fields of format X (R106), the codes of STATE and ERR, what a trace index selects (44_trace.md R252 to R256), and
the window's address decoding (R77, R80). -/

namespace Sys2Proof.Machine

open Sys2Proof

/-- The _HI (bits 63:32) or _LO (bits 31:0) half of a 64-bit register (R75). -/
def half (hi : Bool) (x : BitVec 64) : Word := if hi then x.extractLsb' 32 32 else x.extractLsb' 0 32

/-- The 64-bit register with one half replaced (R105: MSGLEN = {MSGLEN_HI, MSGLEN_LO}). -/
def setHalf (hi : Bool) (x : BitVec 64) (wdata : Word) : BitVec 64 :=
  if hi then wdata ++ half false x else half true x ++ wdata

/-- The 2-bit code of STATE (R28). -/
def Phase.code : Phase → BitVec 2
  | .idle => 0#2 | .ready => 1#2 | .busy => 2#2 | .done => 3#2

/-- The 4-bit code of ERR (60_exceptions.md R301). -/
def ErrCode.code : ErrCode → BitVec 4
  | .none => 0#4 | .msgTooLarge => 1#4 | .traceCapacity => 2#4 | .badSequence => 3#4 | .busy => 4#4 | .illegalCmd => 5#4

/-- The fields of format X (R106); bits [15:12] are dropped. -/
def TrIdx.ofWord (x : Word) : TrIdx :=
  { block := x.extractLsb' 16 16, field := x.extractLsb' 8 4, sect := x.extractLsb' 6 2, index := x.extractLsb' 0 6 }

/-- TRIDX as a read returns it (10_state.md R51): bits [15:12] are 0. -/
def TrIdx.toWord (x : TrIdx) : Word := x.block ++ 0#4 ++ x.field ++ x.sect ++ x.index

/-- The block entry that SECT, INDEX and FIELD select, if there is one (R252): SECT 1 has INDEX 0..15, SECT 3 has
FIELD 0..12; SECT 0 is no entry of a block record. -/
def TrIdx.addr? (x : TrIdx) : Option TraceAddr :=
  if x.sect = 1#2 then (if h : x.index.toNat < 16 then some (.initial ⟨x.index.toNat, h⟩) else none)
  else if x.sect = 2#2 then some (.sched (Fin.ofNat 64 x.index.toNat))
  else if x.sect = 3#2 then
    (if h : x.field.toNat < 13 then some (.round (Fin.ofNat 64 x.index.toNat) ⟨x.field.toNat, h⟩) else none)
  else none

/-- The MSTEP of the micro-step that writes an entry (R256). -/
def TraceAddr.estep : TraceAddr → Nat
  | .initial _ => 0
  | .sched t   => if t.val < 16 then 0 else t.val - 15
  | .round i _ => 49 + i.val

/-- The place of an entry among the 912 words of a block record (R251). -/
def TraceAddr.offset : TraceAddr → Nat
  | .initial t   => t.val
  | .sched t     => 16 + t.val
  | .round i fld => 80 + 13 * i.val + fld.val

/-- The place of an entry in the whole trace storage. -/
def traceKey (block : Nat) (a : TraceAddr) : Nat := 912 * block + a.offset

/-- The items of trace section 0 (R253); one_bit and len_field_bits are the constants of R33. Indexes above 9 have no
item and are never valid (R257); the 0 here for them is DESIGN CHOICE (log 21). -/
def PadInfo.item (p : PadInfo) (index : Nat) : Word :=
  match index with
  | 0 => p.dataBits.extractLsb' 0 32
  | 1 => p.dataBits.extractLsb' 32 32
  | 2 => 0x00000001#32
  | 3 => p.zeroPadBits.setWidth 32
  | 4 => 0x00000040#32
  | 5 => p.totalBits.extractLsb' 0 32
  | 6 => p.totalBits.extractLsb' 32 32
  | 7 => (p.totalBits.extractLsb' 64 1).setWidth 32
  | 8 => p.blockCount.extractLsb' 0 32
  | 9 => (p.blockCount.extractLsb' 32 24).setWidth 32
  | _ => 0x00000000#32

/-- The word address of a byte address on the bus, if the port can carry it: the window is the 256 bytes at BASE,
and an access is at a multiple of 4 (R77, R80). -/
def windowAddr (cfg : Config) (addr : Nat) : Option (BitVec 6) :=
  if cfg.base ≤ addr ∧ addr < cfg.base + 256 ∧ (addr - cfg.base) % 4 = 0 then
    some (BitVec.ofNat 6 ((addr - cfg.base) / 4))
  else none

end Sys2Proof.Machine
end

