-- ==== Sys2Proof/Machine/Ops.lean ====
section
/-! DEFINITION. The named operations: the trace storage (44_trace.md R250, R251), the block's answer to an error
event (60_exceptions.md R300: it takes the place of an exception) and to a failed START (43_commands.md R221), the
padding metrics (R222), opening a run (R216), soft reset (R218) and reset (70_reset_and_hazards.md R340), and the
plain register updates. -/

namespace Sys2Proof.Machine

open Sys2Proof

/-! ## The trace storage -/

/-- What a word of the trace storage that is not listed reads as. DESIGN CHOICE (log 9); no valid entry depends on
it, since a valid entry was written in its run (44_trace.md R257). -/
def Trace.unlisted : Word := 0#32

/-- The canonical form: keys strictly rising from `lo` on, and no listed word equal to Trace.unlisted. -/
def Trace.wfFrom (lo : Nat) : List TraceCell → Bool
  | []           => true
  | (n, x) :: tr => decide (lo ≤ n) && x != Trace.unlisted && Trace.wfFrom (n + 1) tr

def Trace.wf (tr : List TraceCell) : Bool := Trace.wfFrom 0 tr

/-- Every listed word lies in the TRACE_CAP block records of 912 words (R251). -/
def Trace.inside (cap : Nat) (tr : List TraceCell) : Bool := tr.all fun c => decide (c.1 < 912 * cap)

/-- The word at a place. -/
def Trace.get (n : Nat) : List TraceCell → Word
  | []           => Trace.unlisted
  | (m, x) :: tr => if m = n then x else Trace.get n tr

/-- The storage with one word written, in canonical form. -/
def Trace.put (n : Nat) (x : Word) : List TraceCell → List TraceCell
  | []           => if x = Trace.unlisted then [] else [(n, x)]
  | (m, y) :: tr =>
    if n < m then (if x = Trace.unlisted then (m, y) :: tr else (n, x) :: (m, y) :: tr)
    else if n = m then (if x = Trace.unlisted then tr else (n, x) :: tr)
    else (m, y) :: Trace.put n x tr

/-- Reading the entry (block, a). -/
def Trace.read (tr : List TraceCell) (block : Nat) (a : TraceAddr) : Word := Trace.get (traceKey block a) tr

/-- TraceWrite for a block record of the storage (R250). A block index at or above TRACE_CAP, which no run reaches
(R250), has no record and stores nothing (log 9). -/
def Trace.write (cap block : Nat) (a : TraceAddr) (x : Word) (tr : List TraceCell) : List TraceCell :=
  if block < cap then Trace.put (traceKey block a) x tr else tr

/-- The storage holding exactly the given words that lie inside it, in canonical form. -/
def Trace.ofCells (cap : Nat) (cells : List TraceCell) : List TraceCell :=
  cells.foldl (fun tr c => if c.1 < 912 * cap then Trace.put c.1 c.2 tr else tr) []

/-- The trace writes of a micro-step: each entry in turn, in the record of block BLKDONE, only when TRACE_ON = 1
(R250). -/
def record (entries : List (TraceAddr × Word)) (s : State) : State :=
  if s.traceOn then
    { s with trace := entries.foldl (fun tr e => Trace.write s.cfg.traceCap s.blkdone.toNat e.1 e.2 tr) s.trace }
  else s

/-! ## Error events: what the block has in place of exceptions -/

/-- `raise Err(code)` (60_exceptions.md R300): the code is written to ERR and the access has no other effect. -/
def raiseErr (code : ErrCode) (s : State) : State := { s with err := code }

/-- StartFail(code) (43_commands.md R221). -/
def startFail (code : ErrCode) (s : State) : State :=
  { s with err := code, phase := .idle, traceOn := false, blkcount := 0#64, blkdone := 0#64, mstep := 0#7 }

/-! ## START's computations -/

/-- zero_pad_bits of R222: the smallest z with data_bits + 1 + z ≡ 448 (mod 512). -/
def zeroPadBits (dataBits : Nat) : Nat := (447 + 512 - dataBits % 512) % 512

/-- total_bits of R222, of a message of L bytes. -/
def totalBits (len : Nat) : Nat := 8 * len + 1 + zeroPadBits (8 * len) + 64

/-- block_count of R222. -/
def blockCount (len : Nat) : Nat := totalBits len / 512

/-- PadInfo(L) of R222, at the latch's widths (R33); nothing is cut off for L < 2^61. For L >= 2^61 the rule computes
none and START asks for none; the low bits here are DESIGN CHOICE (log 21). -/
def padInfo (msglen : BitVec 64) : PadInfo :=
  let len := msglen.toNat
  { dataBits    := BitVec.ofNat 64 (8 * len)
    zeroPadBits := BitVec.ofNat 9 (zeroPadBits (8 * len))
    totalBits   := BitVec.ofNat 65 (totalBits len)
    blockCount  := BitVec.ofNat 56 (blockCount len) }

/-- The part of START that opens the run (R216). -/
def openRun (trace : Bool) (p : PadInfo) (s : State) : State :=
  { s with err := .none, traceOn := trace, padinfo := p, blkcount := p.blockCount.setWidth 64, blkdone := 0#64
           mstep := 0#7, hash := h0, phase := .ready }

/-- START (R216), its checks in the order of 60_exceptions.md R306. -/
def startRun (trace : Bool) (s : State) : State :=
  if s.phase = .busy then raiseErr .busy s
  else if 2 ^ 61 ≤ s.msglen.toNat then startFail .msgTooLarge s
  else if trace ∧ s.cfg.traceCap < (padInfo s.msglen).blockCount.toNat then startFail .traceCapacity s
  else openRun trace (padInfo s.msglen) s

/-! ## The two resets -/

/-- The control state both resets set (10_state.md R55, 70_reset_and_hazards.md R342). -/
def clearControl (s : State) : State :=
  { s with phase := .idle, mstep := 0#7, traceOn := false, err := .none, msglen := 0#64, blkcount := 0#64
           blkdone := 0#64, tridx := { block := 0#16, field := 0#4, sect := 0#2, index := 0#6 } }

/-- The reset input (R340): the control state cleared and the unspecified elements drawn. The instance's parameters
and the model's own fields stay. -/
def hardReset (d : Draw) (s : State) : State :=
  { clearControl s with
      v := d.v, t1 := d.t1, t2 := d.t2, w := d.w, blk := d.blk, hash := d.hash, padinfo := d.padinfo
      trace := Trace.ofCells s.cfg.traceCap d.trace }

/-! ## Accesses -/

/-- A read returns a word on the RDATA lines and changes nothing else (43_commands.md R214, 20_memory.md R79). -/
def answer (x : Word) (s : State) : State := { s with rdata := x }

/-- A write that the BUSY rule refuses while BUSY (R212); otherwise it has its effect. -/
def unlessBusy (f : State → State) (s : State) : State := if s.phase = .busy then raiseErr .busy s else f s

/-- The event that was delivered is taken off the list of events to come (log 3). -/
def consume (s : State) : State := { s with inputs := s.inputs.tail }

end Sys2Proof.Machine
end

