-- ==== Sys2Proof/Machine/Flags.lean ====
section
/-! DEFINITION. The block's only status bits, the fields of STATUS (10_state.md R35, R43), with the valid predicate
of the trace (44_trace.md R257) and what TRDATA reads (R258). The ALU has no flags (R35). -/

namespace Sys2Proof.Machine

open Sys2Proof

/-- valid(TRIDX) (R257), evaluated at the read. The block index is compared as an unsigned 64-bit number. -/
def trValid (s : State) : Bool :=
  if s.traceOn = false ∨ s.phase = .idle then false
  else if s.tridx.sect = 0#2 then decide (s.tridx.index.toNat ≤ 9)
  else
    match s.tridx.addr? with
    | none   => false
    | some a =>
      if s.tridx.block.toNat < s.blkdone.toNat then true
      else if s.tridx.block.toNat = s.blkdone.toNat ∧ s.phase = .busy then decide (a.estep < s.mstep.toNat)
      else false

/-- The word a valid selection names (R258). A selection that names no entry is never valid; the 0 here for it is
DESIGN CHOICE (log 21). -/
def trEntry (s : State) : Word :=
  if s.tridx.sect = 0#2 then s.padinfo.item s.tridx.index.toNat
  else
    match s.tridx.addr? with
    | none   => 0#32
    | some a => Trace.read s.trace s.tridx.block.toNat a

/-- TRDATA (R258, 10_state.md R52): the entry if it is valid, otherwise 0. -/
def trData (s : State) : Word := if trValid s then trEntry s else 0#32

/-- STATUS (R43): STATE [1:0], TRACE_ON [2], TRVALID [3], ERR [11:8], every other bit 0. -/
def statusWord (s : State) : Word :=
  0#20 ++ s.err.code ++ 0#4 ++ BitVec.ofBool (trValid s) ++ BitVec.ofBool s.traceOn ++ s.phase.code

/-- PROGRESS (R44): MSTEP [6:0], every other bit 0. -/
def progressWord (s : State) : Word := 0#25 ++ s.mstep

/-- CAP (R48). -/
def capWord (s : State) : Word := BitVec.ofNat 32 s.cfg.traceCap

end Sys2Proof.Machine
end

