-- ==== Sys2Proof/Machine/Bus.lean ====
section
/-! DEFINITION. The host's register accesses (10_state.md R40 to R53, 43_commands.md R210 to R214, R224). A read
returns the register's word and changes nothing else (R214); a write to an RO register or to a reserved address is
ignored without an error (R224, R53). -/

namespace Sys2Proof.Machine

open Sys2Proof

/-- A reserved address (R53): a read returns 0, a write is ignored. -/
def reservedAccess (we : Bool) (s : State) : State := if we then s else answer 0#32 s

def execRdId (s : State) : Result := .next (answer idValue s)
def execWrId (_wdata : Word) (s : State) : Result := .next s
/-- CMD has no storage: it reads 0 (R42, R224). Its write is execWrCmd. -/
def execRdCmd (s : State) : Result := .next (answer 0#32 s)
def execRdStatus (s : State) : Result := .next (answer (statusWord s) s)
def execWrStatus (_wdata : Word) (s : State) : Result := .next s
def execRdProgress (s : State) : Result := .next (answer (progressWord s) s)
def execWrProgress (_wdata : Word) (s : State) : Result := .next s
def execRdMsglen (hi : Bool) (s : State) : Result := .next (answer (half hi s.msglen) s)
/-- Write MSGLEN_LO or MSGLEN_HI (R211), refused while BUSY (R212). -/
def execWrMsglen (hi : Bool) (wdata : Word) (s : State) : Result :=
  .next (unlessBusy (fun s => { s with msglen := setHalf hi s.msglen wdata }) s)
def execRdBlkcount (hi : Bool) (s : State) : Result := .next (answer (half hi s.blkcount) s)
def execWrBlkcount (_hi : Bool) (_wdata : Word) (s : State) : Result := .next s
def execRdBlkdone (hi : Bool) (s : State) : Result := .next (answer (half hi s.blkdone) s)
def execWrBlkdone (_hi : Bool) (_wdata : Word) (s : State) : Result := .next s
def execRdCap (s : State) : Result := .next (answer (capWord s) s)
def execWrCap (_wdata : Word) (s : State) : Result := .next s
def execRsv0B (we : Bool) (_wdata : Word) (s : State) : Result := .next (reservedAccess we s)
def execRsv0C0F (we : Bool) (_low : Fin 4) (_wdata : Word) (s : State) : Result := .next (reservedAccess we s)
def execRdBlk (t : Fin 16) (s : State) : Result := .next (answer s.blk[t] s)
/-- Write BLK[t] (R210), refused while BUSY (R212). -/
def execWrBlk (t : Fin 16) (wdata : Word) (s : State) : Result :=
  .next (unlessBusy (fun s => { s with blk := s.blk.set t.val wdata }) s)
def execRdHash (k : Fin 8) (s : State) : Result := .next (answer s.hash[k] s)
def execWrHash (_k : Fin 8) (_wdata : Word) (s : State) : Result := .next s
def execRsv282F (we : Bool) (_low : Fin 8) (_wdata : Word) (s : State) : Result := .next (reservedAccess we s)
def execRdTridx (s : State) : Result := .next (answer s.tridx.toWord s)
/-- Write TRIDX (R213), accepted in every state. -/
def execWrTridx (wdata : Word) (s : State) : Result := .next { s with tridx := TrIdx.ofWord wdata }
def execRdTrdata (s : State) : Result := .next (answer (trData s) s)
def execWrTrdata (_wdata : Word) (s : State) : Result := .next s
def execRsv3233 (we : Bool) (_low : Fin 2) (_wdata : Word) (s : State) : Result := .next (reservedAccess we s)
def execRsv3437 (we : Bool) (_low : Fin 4) (_wdata : Word) (s : State) : Result := .next (reservedAccess we s)
def execRsv383F (we : Bool) (_low : Fin 8) (_wdata : Word) (s : State) : Result := .next (reservedAccess we s)

end Sys2Proof.Machine
end

