-- ==== Sys2Proof/Syntax.lean ====
section
/-! DEFINITION. The instructions: one constructor for each of the 52 rows of opcode_table.json. The place of a
word decides which format it is in (30_encoding.md R100): format B, a host access; format C, the command word
written to CMD; format U, the sequencer's micro-op; format F, the ALU function of a micro-op. -/

namespace Sys2Proof

/-- The rows of the opcode table. A write carries its data word WDATA. `hi` is WADDR[0], the half of a 64-bit
register (20_memory.md R75). A reserved row stands for either WE, so it carries `we`, and the low bits of its
word address. -/
inductive Instr where
  -- format B: one host access (R101, R102)
  | rdId
  | wrId       (wdata : Word)
  | rdCmd
  | wrCmd      (wdata : Word)
  | rdStatus
  | wrStatus   (wdata : Word)
  | rdProgress
  | wrProgress (wdata : Word)
  | rdMsglen   (hi : Bool)
  | wrMsglen   (hi : Bool) (wdata : Word)
  | rdBlkcount (hi : Bool)
  | wrBlkcount (hi : Bool) (wdata : Word)
  | rdBlkdone  (hi : Bool)
  | wrBlkdone  (hi : Bool) (wdata : Word)
  | rdCap
  | wrCap      (wdata : Word)
  | rsv0B      (we : Bool) (wdata : Word)
  | rsv0C0F    (we : Bool) (low : Fin 4) (wdata : Word)
  | rdBlk      (t : Fin 16)
  | wrBlk      (t : Fin 16) (wdata : Word)
  | rdHash     (k : Fin 8)
  | wrHash     (k : Fin 8) (wdata : Word)
  | rsv282F    (we : Bool) (low : Fin 8) (wdata : Word)
  | rdTridx
  | wrTridx    (wdata : Word)
  | rdTrdata
  | wrTrdata   (wdata : Word)
  | rsv3233    (we : Bool) (low : Fin 2) (wdata : Word)
  | rsv3437    (we : Bool) (low : Fin 4) (wdata : Word)
  | rsv383F    (we : Bool) (low : Fin 8) (wdata : Word)
  -- format C: the command word (R103, R104)
  | nop
  | start
  | startT
  | block
  | sreset
  | illegalCmd (word : Word)
  -- format U: the micro-op (R107); EXPAND's IDX = t - 16 is 0..47 (R108), ROUND's IDX = i is 0..63
  | load
  | expand     (idx : Fin 48)
  | round      (i : Fin 64)
  | feedfwd
  -- format F: the ALU function on the ALU's operand wires (R109, R110); ADD32 and XOR have the wires of their
  -- widest use, a narrower use leaves the others at 0
  | add32      (x1 x2 x3 x4 x5 : Word)
  | rotr       (x : Word) (n : Fin 32)
  | shr        (x : Word) (n : Fin 32)
  | xor32      (x1 x2 x3 : Word)
  | and32      (x y : Word)
  | not32      (x : Word)
  | ch         (x y z : Word)
  | maj        (x y z : Word)
  | bsig0      (x : Word)
  | bsig1      (x : Word)
  | ssig0      (x : Word)
  | ssig1      (x : Word)
deriving DecidableEq, Repr

end Sys2Proof
end

