-- ==== Sys2Proof/WellFormed.lean ====
section
/-! DEFINITION. Which terms of Instr are instructions. Register numbers, micro-op indices and rotate amounts are
legal by their types; two checks remain: an ILLEGAL_CMD word is not one of the five legal words (30_encoding.md
R104), and a read of a reserved address carries no data word (R101: a read has no WDATA; the term has it 0). -/

namespace Sys2Proof

/-- The five legal command words, as the last sentence of R104 lists them. -/
def legalCommandWords : List Word := [0x00000000#32, 0x00000001#32, 0x00000011#32, 0x00000002#32, 0x0000000F#32]

/-- A reserved access carries a data word only if it is a write. -/
def reservedAccessOk (we : Bool) (wdata : Word) : Bool := we || wdata == 0#32

/-- Is this term an instruction of the table? -/
def Instr.wellFormed : Instr → Bool
  | .rsv0B we wdata       => reservedAccessOk we wdata
  | .rsv0C0F we _ wdata   => reservedAccessOk we wdata
  | .rsv282F we _ wdata   => reservedAccessOk we wdata
  | .rsv3233 we _ wdata   => reservedAccessOk we wdata
  | .rsv3437 we _ wdata   => reservedAccessOk we wdata
  | .rsv383F we _ wdata   => reservedAccessOk we wdata
  | .illegalCmd word      => !(legalCommandWords.contains word)
  | .rdId | .wrId _ | .rdCmd | .wrCmd _ | .rdStatus | .wrStatus _ | .rdProgress | .wrProgress _
  | .rdMsglen _ | .wrMsglen _ _ | .rdBlkcount _ | .wrBlkcount _ _ | .rdBlkdone _ | .wrBlkdone _ _
  | .rdCap | .wrCap _ | .rdBlk _ | .wrBlk _ _ | .rdHash _ | .wrHash _ _
  | .rdTridx | .wrTridx _ | .rdTrdata | .wrTrdata _
  | .nop | .start | .startT | .block | .sreset
  | .load | .expand _ | .round _ | .feedfwd
  | .add32 _ _ _ _ _ | .rotr _ _ | .shr _ _ | .xor32 _ _ _ | .and32 _ _ | .not32 _
  | .ch _ _ _ | .maj _ _ _ | .bsig0 _ | .bsig1 _ | .ssig0 _ | .ssig1 _ => true

end Sys2Proof
end

