-- ==== Sys2Proof/Decode.lean ====
section
/-! DEFINITION. Decoding and encoding (30_encoding.md). A word's format is given by the place it appears in (R100),
so a coded word carries its place. Decoding is total; the reserved format-U and format-F words are rejected by name
(R108, R109); formats B and C have no word without a meaning (R102, R104). -/

namespace Sys2Proof

/-- A coded word in its place. `bus` is one host access (R101): the 7 bits WE, WADDR and the WDATA lines.
`cmd` is the data word of a write to CMD (R103). `uop` is the sequencer's micro-op (R107). `alu` is a function
select with the operand wires (R109, R110). -/
inductive Code where
  | bus (code : BitVec 7) (wdata : Word)
  | cmd (word : Word)
  | uop (word : BitVec 8)
  | alu (fn : BitVec 4) (ops : AluIn)
deriving DecidableEq, Repr

/-- Why a coded word is no instruction: a reserved micro-op word (R108), or a reserved function code (R109). -/
inductive DecodeError where
  | reservedMicroOp (word : BitVec 8)
  | reservedAluFunction (fn : BitVec 4)
deriving DecidableEq, Repr

/-- WADDR, bits [5:0] of format B (R101). -/
def busWaddr (code : BitVec 7) : Nat := code.toNat % 64

/-- WE, bit [6] of format B (R101). -/
def busWe (code : BitVec 7) : Bool := code.getLsbD 6

/-- The column WE = 0 of R102's table, by the word address. -/
def decodeRead (a : Nat) : Instr :=
  if a = 0x00 then .rdId
  else if a = 0x01 then .rdCmd
  else if a = 0x02 then .rdStatus
  else if a = 0x03 then .rdProgress
  else if a ≤ 0x05 then .rdMsglen (a % 2 == 1)
  else if a ≤ 0x07 then .rdBlkcount (a % 2 == 1)
  else if a ≤ 0x09 then .rdBlkdone (a % 2 == 1)
  else if a = 0x0A then .rdCap
  else if a = 0x0B then .rsv0B false 0#32
  else if a ≤ 0x0F then .rsv0C0F false (Fin.ofNat 4 a) 0#32
  else if a ≤ 0x1F then .rdBlk (Fin.ofNat 16 a)
  else if a ≤ 0x27 then .rdHash (Fin.ofNat 8 a)
  else if a ≤ 0x2F then .rsv282F false (Fin.ofNat 8 a) 0#32
  else if a = 0x30 then .rdTridx
  else if a = 0x31 then .rdTrdata
  else if a ≤ 0x33 then .rsv3233 false (Fin.ofNat 2 a) 0#32
  else if a ≤ 0x37 then .rsv3437 false (Fin.ofNat 4 a) 0#32
  else .rsv383F false (Fin.ofNat 8 a) 0#32

/-- The column WE = 1 of R102's table, by the word address. -/
def decodeWrite (a : Nat) (wdata : Word) : Instr :=
  if a = 0x00 then .wrId wdata
  else if a = 0x01 then .wrCmd wdata
  else if a = 0x02 then .wrStatus wdata
  else if a = 0x03 then .wrProgress wdata
  else if a ≤ 0x05 then .wrMsglen (a % 2 == 1) wdata
  else if a ≤ 0x07 then .wrBlkcount (a % 2 == 1) wdata
  else if a ≤ 0x09 then .wrBlkdone (a % 2 == 1) wdata
  else if a = 0x0A then .wrCap wdata
  else if a = 0x0B then .rsv0B true wdata
  else if a ≤ 0x0F then .rsv0C0F true (Fin.ofNat 4 a) wdata
  else if a ≤ 0x1F then .wrBlk (Fin.ofNat 16 a) wdata
  else if a ≤ 0x27 then .wrHash (Fin.ofNat 8 a) wdata
  else if a ≤ 0x2F then .rsv282F true (Fin.ofNat 8 a) wdata
  else if a = 0x30 then .wrTridx wdata
  else if a = 0x31 then .wrTrdata wdata
  else if a ≤ 0x33 then .rsv3233 true (Fin.ofNat 2 a) wdata
  else if a ≤ 0x37 then .rsv3437 true (Fin.ofNat 4 a) wdata
  else .rsv383F true (Fin.ofNat 8 a) wdata

/-- Format B (R102): every one of the 128 codes is a row. A read ignores the WDATA lines (log 17). -/
def decodeBus (code : BitVec 7) (wdata : Word) : Instr :=
  if busWe code then decodeWrite (busWaddr code) wdata else decodeRead (busWaddr code)

/-- What a command word asks for (R104). -/
inductive Command where
  | nop
  | start
  | startT
  | block
  | sreset
  | illegal
deriving DecidableEq, Repr

/-- The fields of format C (R103). -/
def cmdOp (word : Word) : Nat := word.toNat % 16
def cmdTrace (word : Word) : Bool := word.getLsbD 4
def cmdRsv (word : Word) : BitVec 27 := word.extractLsb' 5 27

/-- R104: legal if and only if OP ∈ {0x0, 0x1, 0x2, 0xF}, RSV = 0, and TRACE = 0 or OP = 0x1. -/
def decodeCommand (word : Word) : Command :=
  if cmdRsv word ≠ 0#27 then .illegal
  else if cmdOp word = 0x0 ∧ cmdTrace word = false then .nop
  else if cmdOp word = 0x1 ∧ cmdTrace word = false then .start
  else if cmdOp word = 0x1 ∧ cmdTrace word = true then .startT
  else if cmdOp word = 0x2 ∧ cmdTrace word = false then .block
  else if cmdOp word = 0xF ∧ cmdTrace word = false then .sreset
  else .illegal

/-- Format C: every word is a row of the table, a legal command or ILLEGAL_CMD (R104, R219). -/
def decodeCmd (word : Word) : Instr :=
  match decodeCommand word with
  | .nop     => .nop
  | .start   => .start
  | .startT  => .startT
  | .block   => .block
  | .sreset  => .sreset
  | .illegal => .illegalCmd word

/-- Format U (R107): CLASS is bits [7:6], IDX bits [5:0]. The words of R108 are rejected. -/
def decodeUop (word : BitVec 8) : Except DecodeError Instr :=
  let cls := word.toNat / 64
  let idx := word.toNat % 64
  if cls = 0 then (if idx = 0 then .ok .load else .error (.reservedMicroOp word))
  else if cls = 1 then
    (if h : idx < 48 then .ok (.expand ⟨idx, h⟩) else .error (.reservedMicroOp word))
  else if cls = 2 then .ok (.round (Fin.ofNat 64 idx))
  else (if idx = 0 then .ok .feedfwd else .error (.reservedMicroOp word))

/-- Format F (R109): 0x0 to 0xB are the functions, 0xC to 0xF are rejected. -/
def decodeAlu (fn : BitVec 4) (ops : AluIn) : Except DecodeError Instr :=
  match fn.toNat with
  | 0x0 => .ok (.add32 ops.x1 ops.x2 ops.x3 ops.x4 ops.x5)
  | 0x1 => .ok (.rotr ops.x1 ops.n)
  | 0x2 => .ok (.shr ops.x1 ops.n)
  | 0x3 => .ok (.xor32 ops.x1 ops.x2 ops.x3)
  | 0x4 => .ok (.and32 ops.x1 ops.x2)
  | 0x5 => .ok (.not32 ops.x1)
  | 0x6 => .ok (.ch ops.x1 ops.x2 ops.x3)
  | 0x7 => .ok (.maj ops.x1 ops.x2 ops.x3)
  | 0x8 => .ok (.bsig0 ops.x1)
  | 0x9 => .ok (.bsig1 ops.x1)
  | 0xA => .ok (.ssig0 ops.x1)
  | 0xB => .ok (.ssig1 ops.x1)
  | _   => .error (.reservedAluFunction fn)

/-- The decoder: total, rejecting by name (R111). -/
def decode : Code → Except DecodeError Instr
  | .bus code wdata => .ok (decodeBus code wdata)
  | .cmd word       => .ok (decodeCmd word)
  | .uop word       => decodeUop word
  | .alu fn ops     => decodeAlu fn ops

/-! ## The encoder -/

/-- WE and WADDR put together (R101). -/
def busCode (we : Bool) (waddr : BitVec 6) : BitVec 7 := BitVec.ofBool we ++ waddr

/-- A read access at a word address; it drives no data word. -/
def readAt (waddr : BitVec 6) : Code := .bus (busCode false waddr) 0#32

/-- A write access at a word address. -/
def writeAt (waddr : BitVec 6) (wdata : Word) : Code := .bus (busCode true waddr) wdata

/-- The word address of a half of a 64-bit register whose low half is at `lo` (R75). -/
def halfAddr (lo : BitVec 6) (hi : Bool) : BitVec 6 := if hi then lo + 1#6 else lo

/-- The coded word of an instruction, from the tables of R102, R104, R107 and R109. -/
def encode : Instr → Code
  | .rdId                => readAt 0x00#6
  | .wrId wdata          => writeAt 0x00#6 wdata
  | .rdCmd               => readAt 0x01#6
  | .wrCmd wdata         => writeAt 0x01#6 wdata
  | .rdStatus            => readAt 0x02#6
  | .wrStatus wdata      => writeAt 0x02#6 wdata
  | .rdProgress          => readAt 0x03#6
  | .wrProgress wdata    => writeAt 0x03#6 wdata
  | .rdMsglen hi         => readAt (halfAddr 0x04#6 hi)
  | .wrMsglen hi wdata   => writeAt (halfAddr 0x04#6 hi) wdata
  | .rdBlkcount hi       => readAt (halfAddr 0x06#6 hi)
  | .wrBlkcount hi wdata => writeAt (halfAddr 0x06#6 hi) wdata
  | .rdBlkdone hi        => readAt (halfAddr 0x08#6 hi)
  | .wrBlkdone hi wdata  => writeAt (halfAddr 0x08#6 hi) wdata
  | .rdCap               => readAt 0x0A#6
  | .wrCap wdata         => writeAt 0x0A#6 wdata
  | .rsv0B we wdata      => .bus (busCode we 0x0B#6) wdata
  | .rsv0C0F we low wdata => .bus (busCode we (0x0C#6 + BitVec.ofNat 6 low.val)) wdata
  | .rdBlk t             => readAt (0x10#6 + BitVec.ofNat 6 t.val)
  | .wrBlk t wdata       => writeAt (0x10#6 + BitVec.ofNat 6 t.val) wdata
  | .rdHash k            => readAt (0x20#6 + BitVec.ofNat 6 k.val)
  | .wrHash k wdata      => writeAt (0x20#6 + BitVec.ofNat 6 k.val) wdata
  | .rsv282F we low wdata => .bus (busCode we (0x28#6 + BitVec.ofNat 6 low.val)) wdata
  | .rdTridx             => readAt 0x30#6
  | .wrTridx wdata       => writeAt 0x30#6 wdata
  | .rdTrdata            => readAt 0x31#6
  | .wrTrdata wdata      => writeAt 0x31#6 wdata
  | .rsv3233 we low wdata => .bus (busCode we (0x32#6 + BitVec.ofNat 6 low.val)) wdata
  | .rsv3437 we low wdata => .bus (busCode we (0x34#6 + BitVec.ofNat 6 low.val)) wdata
  | .rsv383F we low wdata => .bus (busCode we (0x38#6 + BitVec.ofNat 6 low.val)) wdata
  | .nop                 => .cmd 0x00000000#32
  | .start               => .cmd 0x00000001#32
  | .startT              => .cmd 0x00000011#32
  | .block               => .cmd 0x00000002#32
  | .sreset              => .cmd 0x0000000F#32
  | .illegalCmd word     => .cmd word
  | .load                => .uop (0b00#2 ++ 0#6)
  | .expand idx          => .uop (0b01#2 ++ BitVec.ofNat 6 idx.val)
  | .round i             => .uop (0b10#2 ++ BitVec.ofNat 6 i.val)
  | .feedfwd             => .uop (0b11#2 ++ 0#6)
  | .add32 x1 x2 x3 x4 x5 => .alu 0x0#4 { AluIn.zero with x1 := x1, x2 := x2, x3 := x3, x4 := x4, x5 := x5 }
  | .rotr x n            => .alu 0x1#4 { AluIn.zero with x1 := x, n := n }
  | .shr x n             => .alu 0x2#4 { AluIn.zero with x1 := x, n := n }
  | .xor32 x1 x2 x3      => .alu 0x3#4 { AluIn.zero with x1 := x1, x2 := x2, x3 := x3 }
  | .and32 x y           => .alu 0x4#4 { AluIn.zero with x1 := x, x2 := y }
  | .not32 x             => .alu 0x5#4 { AluIn.zero with x1 := x }
  | .ch x y z            => .alu 0x6#4 { AluIn.zero with x1 := x, x2 := y, x3 := z }
  | .maj x y z           => .alu 0x7#4 { AluIn.zero with x1 := x, x2 := y, x3 := z }
  | .bsig0 x             => .alu 0x8#4 { AluIn.zero with x1 := x }
  | .bsig1 x             => .alu 0x9#4 { AluIn.zero with x1 := x }
  | .ssig0 x             => .alu 0xA#4 { AluIn.zero with x1 := x }
  | .ssig1 x             => .alu 0xB#4 { AluIn.zero with x1 := x }

/-! ## The opcode table as rows of mask and pattern -/

/-- The place a row's word appears in. -/
inductive Format where
  | b | c | u | f
deriving DecidableEq, Repr

/-- A row of opcode_table.json: its format, its mask and its match. -/
structure Row where
  mnemonic : String
  format   : Format
  mask     : Nat
  pattern  : Nat
deriving DecidableEq, Repr

/-- The 30 rows of format B. -/
def busRows : List Row :=
  [⟨"RD_ID", .b, 0x7F, 0x00⟩, ⟨"WR_ID", .b, 0x7F, 0x40⟩, ⟨"RD_CMD", .b, 0x7F, 0x01⟩, ⟨"WR_CMD", .b, 0x7F, 0x41⟩,
   ⟨"RD_STATUS", .b, 0x7F, 0x02⟩, ⟨"WR_STATUS", .b, 0x7F, 0x42⟩, ⟨"RD_PROGRESS", .b, 0x7F, 0x03⟩,
   ⟨"WR_PROGRESS", .b, 0x7F, 0x43⟩, ⟨"RD_MSGLEN", .b, 0x7E, 0x04⟩, ⟨"WR_MSGLEN", .b, 0x7E, 0x44⟩] ++
  [⟨"RD_BLKCOUNT", .b, 0x7E, 0x06⟩, ⟨"WR_BLKCOUNT", .b, 0x7E, 0x46⟩, ⟨"RD_BLKDONE", .b, 0x7E, 0x08⟩,
   ⟨"WR_BLKDONE", .b, 0x7E, 0x48⟩, ⟨"RD_CAP", .b, 0x7F, 0x0A⟩, ⟨"WR_CAP", .b, 0x7F, 0x4A⟩,
   ⟨"RSV_0B", .b, 0x3F, 0x0B⟩, ⟨"RSV_0C_0F", .b, 0x3C, 0x0C⟩, ⟨"RD_BLK", .b, 0x70, 0x10⟩, ⟨"WR_BLK", .b, 0x70, 0x50⟩] ++
  [⟨"RD_HASH", .b, 0x78, 0x20⟩, ⟨"WR_HASH", .b, 0x78, 0x60⟩, ⟨"RSV_28_2F", .b, 0x38, 0x28⟩, ⟨"RD_TRIDX", .b, 0x7F, 0x30⟩,
   ⟨"WR_TRIDX", .b, 0x7F, 0x70⟩, ⟨"RD_TRDATA", .b, 0x7F, 0x31⟩, ⟨"WR_TRDATA", .b, 0x7F, 0x71⟩,
   ⟨"RSV_32_33", .b, 0x3E, 0x32⟩, ⟨"RSV_34_37", .b, 0x3C, 0x34⟩, ⟨"RSV_38_3F", .b, 0x38, 0x38⟩]

/-- The rows of formats C, U and F that have a mask; ILLEGAL_CMD is every other format-C word (R104). -/
def otherRows : List Row :=
  [⟨"NOP", .c, 0xFFFFFFFF, 0x00000000⟩, ⟨"START", .c, 0xFFFFFFFF, 0x00000001⟩, ⟨"START.T", .c, 0xFFFFFFFF, 0x00000011⟩,
   ⟨"BLOCK", .c, 0xFFFFFFFF, 0x00000002⟩, ⟨"SRESET", .c, 0xFFFFFFFF, 0x0000000F⟩,
   ⟨"LOAD", .u, 0xFF, 0x00⟩, ⟨"EXPAND", .u, 0xC0, 0x40⟩, ⟨"ROUND", .u, 0xC0, 0x80⟩, ⟨"FEEDFWD", .u, 0xFF, 0xC0⟩] ++
  [⟨"ADD32", .f, 0xF, 0x0⟩, ⟨"ROTR", .f, 0xF, 0x1⟩, ⟨"SHR", .f, 0xF, 0x2⟩, ⟨"XOR", .f, 0xF, 0x3⟩, ⟨"AND", .f, 0xF, 0x4⟩,
   ⟨"NOT", .f, 0xF, 0x5⟩, ⟨"CH", .f, 0xF, 0x6⟩, ⟨"MAJ", .f, 0xF, 0x7⟩, ⟨"BSIG0", .f, 0xF, 0x8⟩, ⟨"BSIG1", .f, 0xF, 0x9⟩,
   ⟨"SSIG0", .f, 0xF, 0xA⟩, ⟨"SSIG1", .f, 0xF, 0xB⟩]

/-- Every row that has a mask. -/
def tableRows : List Row := busRows ++ otherRows

/-- The format of a coded word, and its bits as the table numbers them. -/
def Code.format : Code → Format
  | .bus _ _ => .b
  | .cmd _   => .c
  | .uop _   => .u
  | .alu _ _ => .f

def Code.bits : Code → Nat
  | .bus code _ => code.toNat
  | .cmd word   => word.toNat
  | .uop word   => word.toNat
  | .alu fn _   => fn.toNat

/-- Does a coded word lie in a row? -/
def Row.holds (r : Row) (c : Code) : Bool := r.format == c.format && c.bits &&& r.mask == r.pattern

/-- The row of an instruction's mnemonic. -/
def Instr.mnemonic : Instr → String
  | .rdId => "RD_ID" | .wrId _ => "WR_ID" | .rdCmd => "RD_CMD" | .wrCmd _ => "WR_CMD"
  | .rdStatus => "RD_STATUS" | .wrStatus _ => "WR_STATUS" | .rdProgress => "RD_PROGRESS" | .wrProgress _ => "WR_PROGRESS"
  | .rdMsglen _ => "RD_MSGLEN" | .wrMsglen _ _ => "WR_MSGLEN" | .rdBlkcount _ => "RD_BLKCOUNT"
  | .wrBlkcount _ _ => "WR_BLKCOUNT" | .rdBlkdone _ => "RD_BLKDONE" | .wrBlkdone _ _ => "WR_BLKDONE"
  | .rdCap => "RD_CAP" | .wrCap _ => "WR_CAP" | .rsv0B _ _ => "RSV_0B" | .rsv0C0F _ _ _ => "RSV_0C_0F"
  | .rdBlk _ => "RD_BLK" | .wrBlk _ _ => "WR_BLK" | .rdHash _ => "RD_HASH" | .wrHash _ _ => "WR_HASH"
  | .rsv282F _ _ _ => "RSV_28_2F" | .rdTridx => "RD_TRIDX" | .wrTridx _ => "WR_TRIDX" | .rdTrdata => "RD_TRDATA"
  | .wrTrdata _ => "WR_TRDATA" | .rsv3233 _ _ _ => "RSV_32_33" | .rsv3437 _ _ _ => "RSV_34_37"
  | .rsv383F _ _ _ => "RSV_38_3F"
  | .nop => "NOP" | .start => "START" | .startT => "START.T" | .block => "BLOCK" | .sreset => "SRESET"
  | .illegalCmd _ => "ILLEGAL_CMD"
  | .load => "LOAD" | .expand _ => "EXPAND" | .round _ => "ROUND" | .feedfwd => "FEEDFWD"
  | .add32 _ _ _ _ _ => "ADD32" | .rotr _ _ => "ROTR" | .shr _ _ => "SHR" | .xor32 _ _ _ => "XOR" | .and32 _ _ => "AND"
  | .not32 _ => "NOT" | .ch _ _ _ => "CH" | .maj _ _ _ => "MAJ" | .bsig0 _ => "BSIG0" | .bsig1 _ => "BSIG1"
  | .ssig0 _ => "SSIG0" | .ssig1 _ => "SSIG1"

/-! ## The table's words, by their number of bits -/

/-- The place of a word that only its number of bits describes. The table's formats are separate code spaces
(R100), so the number of bits cannot always tell them apart: 32 bits is a command word, up to 4 bits a function
select, 5 to 7 bits an access; of 8 bits, a word whose bit 7 is 0 is read as an access (formats B and F, and the
micro-ops LOAD and EXPAND, share those values) and a word whose bit 7 is 1 as a micro-op. DESIGN CHOICE (log 10). -/
def tableCode (nbits w : Nat) : Code :=
  if nbits ≤ 4 then .alu (BitVec.ofNat 4 w) AluIn.zero
  else if nbits ≤ 8 then
    (if w < 128 then .bus (BitVec.ofNat 7 w) 0#32 else .uop (BitVec.ofNat 8 w))
  else .cmd (BitVec.ofNat 32 w)

/-- The instruction the decoder reads from a word of the table, numbered as the table numbers it. -/
def decodeTableWord (nbits w : Nat) : Option Instr := (decode (tableCode nbits w)).toOption

end Sys2Proof
end

