-- ==== Sys2Proof/Machine/Commands.lean ====
section
/-! DEFINITION. The commands (43_commands.md R215 to R219) and the write to CMD that carries them (30_encoding.md
R104). An illegal word is found before anything else (60_exceptions.md R306). -/

namespace Sys2Proof.Machine

open Sys2Proof

/-- NOP (R215). -/
def execNop (s : State) : Result := .next s

/-- START without trace (R216). -/
def execStart (s : State) : Result := .next (startRun false s)

/-- START with trace (R216, R223). -/
def execStartT (s : State) : Result := .next (startRun true s)

/-- BLOCK (R217), its checks in the order of R306. -/
def execBlock (s : State) : Result :=
  if s.phase = .busy then .next (raiseErr .busy s)
  else if s.phase ≠ .ready then .next (raiseErr .badSequence s)
  else .next { s with phase := .busy, mstep := 0#7 }

/-- SRESET (R218): the data arrays, PADINFO and the trace storage keep their values. -/
def execSreset (s : State) : Result := .next (clearControl s)

/-- An illegal command word (R219). -/
def execIllegalCmd (_word : Word) (s : State) : Result := .next (raiseErr .illegalCmd s)

/-- A write to CMD: the data word is decoded as a command and the command is executed (R104, log 13). -/
def execWrCmd (wdata : Word) (s : State) : Result :=
  match decodeCommand wdata with
  | .nop     => execNop s
  | .start   => execStart s
  | .startT  => execStartT s
  | .block   => execBlock s
  | .sreset  => execSreset s
  | .illegal => execIllegalCmd wdata s

end Sys2Proof.Machine
end

