-- ==== Sys2Proof/Machine/Alu.lean ====
section
/-! DEFINITION. The ALU family (40_alu.md): the functions, pure and total (R129), and the format-F rows: a row's
function value appears on the ALU's output lines and nothing else changes (R129, log 6). -/

namespace Sys2Proof.Machine

open Sys2Proof

/-- TO_U32 (R130): the low 32 bits of an exact sum. -/
def toU32 (x : Nat) : Word := BitVec.ofNat 32 x

/-- ADD32 (R131): the exact sum of the operands, truncated once. -/
def add32 (xs : List Word) : Word := toU32 (xs.map BitVec.toNat).sum

/-- ROTR (R132), 0 <= n <= 31. -/
def rotr (x : Word) (n : Fin 32) : Word := (x >>> n.val) ||| (x <<< (32 - n.val))

/-- SHR (R133), 0 <= n <= 31. -/
def shr (x : Word) (n : Fin 32) : Word := x >>> n.val

/-- XOR (R134). -/
def xor32 (xs : List Word) : Word := xs.foldl (fun a x => a ^^^ x) 0#32

/-- AND (R135). -/
def and32 (x y : Word) : Word := x &&& y

/-- NOT (R136). -/
def not32 (x : Word) : Word := 0xFFFFFFFF#32 ^^^ x

/-- CH (R137). -/
def ch (x y z : Word) : Word := xor32 [and32 x y, and32 (not32 x) z]

/-- MAJ (R138). -/
def maj (x y z : Word) : Word := xor32 [and32 x y, and32 x z, and32 y z]

/-- BSIG0, Σ0 (R139). -/
def bsig0 (x : Word) : Word := xor32 [rotr x 2, rotr x 13, rotr x 22]

/-- BSIG1, Σ1 (R140). -/
def bsig1 (x : Word) : Word := xor32 [rotr x 6, rotr x 11, rotr x 25]

/-- SSIG0, σ0 (R141). -/
def ssig0 (x : Word) : Word := xor32 [rotr x 7, rotr x 18, shr x 3]

/-- SSIG1, σ1 (R142). -/
def ssig1 (x : Word) : Word := xor32 [rotr x 17, rotr x 19, shr x 10]

/-! ## The rows of format F -/

/-- The ALU drives a function value on its output lines and changes no element of R20. -/
def drive (x : Word) (s : State) : State := { s with aluOut := x }

def execAdd32 (x1 x2 x3 x4 x5 : Word) (s : State) : Result := .next (drive (add32 [x1, x2, x3, x4, x5]) s)
def execRotr (x : Word) (n : Fin 32) (s : State) : Result := .next (drive (rotr x n) s)
def execShr (x : Word) (n : Fin 32) (s : State) : Result := .next (drive (shr x n) s)
def execXor32 (x1 x2 x3 : Word) (s : State) : Result := .next (drive (xor32 [x1, x2, x3]) s)
def execAnd32 (x y : Word) (s : State) : Result := .next (drive (and32 x y) s)
def execNot32 (x : Word) (s : State) : Result := .next (drive (not32 x) s)
def execCh (x y z : Word) (s : State) : Result := .next (drive (ch x y z) s)
def execMaj (x y z : Word) (s : State) : Result := .next (drive (maj x y z) s)
def execBsig0 (x : Word) (s : State) : Result := .next (drive (bsig0 x) s)
def execBsig1 (x : Word) (s : State) : Result := .next (drive (bsig1 x) s)
def execSsig0 (x : Word) (s : State) : Result := .next (drive (ssig0 x) s)
def execSsig1 (x : Word) (s : State) : Result := .next (drive (ssig1 x) s)

end Sys2Proof.Machine
end

