-- ==== Sys2Proof/Machine/Schedule.lean ====
section
/-! DEFINITION. The message schedule expander (41_schedule.md): LOAD (R161) and EXPAND t (R162). -/

namespace Sys2Proof.Machine

open Sys2Proof

/-- t = 0..15, the words of a block in order. -/
def blockIndices : List (Fin 16) := [0, 1, 2, 3, 4, 5, 6, 7, 8, 9, 10, 11, 12, 13, 14, 15]

/-- W[0..15] <- BLK[0..15]; W[16..63] keep their values (R161). -/
def loadSchedule (blk : Vector Word 16) (w : Vector Word 64) : Vector Word 64 :=
  blockIndices.foldl (fun w t => w.set t.val blk[t]) w

/-- The trace writes of LOAD: each word as initial word t and as schedule entry t (R161). -/
def loadEntries (blk : Vector Word 16) : List (TraceAddr × Word) :=
  blockIndices.flatMap fun t => [(.initial t, blk[t]), (.sched (t.castLE (by decide)), blk[t])]

/-- LOAD (R161): it starts the block, so MSTEP becomes 1. -/
def execLoad (s : State) : Result :=
  .next { record (loadEntries s.blk) s with w := loadSchedule s.blk s.w, v := s.hash, mstep := 1#7 }

/-- The schedule word EXPAND t computes, t = idx + 16 (R162). -/
def expandWord (w : Vector Word 64) (idx : Fin 48) : Word :=
  add32 [ssig1 w[idx.val + 14], w[idx.val + 9], ssig0 w[idx.val + 1], w[idx.val]]

/-- EXPAND t, t = idx + 16 (R162). -/
def execExpand (idx : Fin 48) (s : State) : Result :=
  let x := expandWord s.w idx
  .next { record [(.sched ⟨idx.val + 16, by omega⟩, x)] s with w := s.w.set (idx.val + 16) x, mstep := s.mstep + 1#7 }

end Sys2Proof.Machine
end

