-- ==== Sys2Proof/Machine/Compress.lean ====
section
/-! DEFINITION. The compression pipeline (42_compress.md): ROUND i (R181) and FEEDFWD (R183). -/

namespace Sys2Proof.Machine

open Sys2Proof

/-- T1 of a round, from the registers before it (R181). -/
def roundT1 (v : Vector Word 8) (ki wi : Word) : Word := add32 [v[7], bsig1 v[4], ch v[4] v[5] v[6], ki, wi]

/-- T2 of a round, from the registers before it (R181). -/
def roundT2 (v : Vector Word 8) : Word := add32 [bsig0 v[0], maj v[0] v[1] v[2]]

/-- The registers after a round; all eight are written at once (R181). -/
def roundRegs (v : Vector Word 8) (t1 t2 : Word) : Vector Word 8 :=
  #v[add32 [t1, t2], v[0], v[1], v[2], add32 [v[3], t1], v[4], v[5], v[6]]

/-- The RoundState of round i, as ROUND writes it into the trace (R181, 44_trace.md R255). -/
def roundEntries (i : Fin 64) (v : Vector Word 8) (t1 t2 wi : Word) : List (TraceAddr × Word) :=
  [(.round i 0, v[0]), (.round i 1, v[1]), (.round i 2, v[2]), (.round i 3, v[3]),
   (.round i 4, v[4]), (.round i 5, v[5]), (.round i 6, v[6]), (.round i 7, v[7]),
   (.round i 8, t1), (.round i 9, t2), (.round i 10, k i), (.round i 11, wi),
   (.round i 12, BitVec.ofNat 32 i.val)]

/-- ROUND i (R181). -/
def execRound (i : Fin 64) (s : State) : Result :=
  let t1 := roundT1 s.v (k i) s.w[i]
  let t2 := roundT2 s.v
  let v := roundRegs s.v t1 t2
  .next { record (roundEntries i v t1 t2 s.w[i]) s with v := v, t1 := t1, t2 := t2, mstep := s.mstep + 1#7 }

/-- The feed-forward sum (R183). -/
def feedForward (hash v : Vector Word 8) : Vector Word 8 :=
  #v[add32 [hash[0], v[0]], add32 [hash[1], v[1]], add32 [hash[2], v[2]], add32 [hash[3], v[3]],
     add32 [hash[4], v[4]], add32 [hash[5], v[5]], add32 [hash[6], v[6]], add32 [hash[7], v[7]]]

/-- FEEDFWD (R183): the block is complete; it leaves BUSY and writes no trace entry. -/
def execFeedfwd (s : State) : Result :=
  let done := s.blkdone + 1#64
  .next { s with hash := feedForward s.hash s.v, blkdone := done, mstep := 0#7
                 phase := if done = s.blkcount then .done else .ready }

end Sys2Proof.Machine
end

