-- ==== Sys2Proof/Machine/Dispatch.lean ====
section
/-! DEFINITION. One arm per constructor of Instr: its meaning. -/

namespace Sys2Proof.Machine

def exec (i : Instr) (s : State) : Host.Outcome State Fault Refusal :=
  match i with
  | .rdId => Sys2Proof.Machine.execRdId s
  | .wrId wdata => Sys2Proof.Machine.execWrId wdata s
  | .rdCmd => Sys2Proof.Machine.execRdCmd s
  | .wrCmd wdata => Sys2Proof.Machine.execWrCmd wdata s
  | .rdStatus => Sys2Proof.Machine.execRdStatus s
  | .wrStatus wdata => Sys2Proof.Machine.execWrStatus wdata s
  | .rdProgress => Sys2Proof.Machine.execRdProgress s
  | .wrProgress wdata => Sys2Proof.Machine.execWrProgress wdata s
  | .rdMsglen hi => Sys2Proof.Machine.execRdMsglen hi s
  | .wrMsglen hi wdata => Sys2Proof.Machine.execWrMsglen hi wdata s
  | .rdBlkcount hi => Sys2Proof.Machine.execRdBlkcount hi s
  | .wrBlkcount hi wdata => Sys2Proof.Machine.execWrBlkcount hi wdata s
  | .rdBlkdone hi => Sys2Proof.Machine.execRdBlkdone hi s
  | .wrBlkdone hi wdata => Sys2Proof.Machine.execWrBlkdone hi wdata s
  | .rdCap => Sys2Proof.Machine.execRdCap s
  | .wrCap wdata => Sys2Proof.Machine.execWrCap wdata s
  | .rsv0B we wdata => Sys2Proof.Machine.execRsv0B we wdata s
  | .rsv0C0F we low wdata => Sys2Proof.Machine.execRsv0C0F we low wdata s
  | .rdBlk t => Sys2Proof.Machine.execRdBlk t s
  | .wrBlk t wdata => Sys2Proof.Machine.execWrBlk t wdata s
  | .rdHash k => Sys2Proof.Machine.execRdHash k s
  | .wrHash k wdata => Sys2Proof.Machine.execWrHash k wdata s
  | .rsv282F we low wdata => Sys2Proof.Machine.execRsv282F we low wdata s
  | .rdTridx => Sys2Proof.Machine.execRdTridx s
  | .wrTridx wdata => Sys2Proof.Machine.execWrTridx wdata s
  | .rdTrdata => Sys2Proof.Machine.execRdTrdata s
  | .wrTrdata wdata => Sys2Proof.Machine.execWrTrdata wdata s
  | .rsv3233 we low wdata => Sys2Proof.Machine.execRsv3233 we low wdata s
  | .rsv3437 we low wdata => Sys2Proof.Machine.execRsv3437 we low wdata s
  | .rsv383F we low wdata => Sys2Proof.Machine.execRsv383F we low wdata s
  | .nop => Sys2Proof.Machine.execNop s
  | .start => Sys2Proof.Machine.execStart s
  | .startT => Sys2Proof.Machine.execStartT s
  | .block => Sys2Proof.Machine.execBlock s
  | .sreset => Sys2Proof.Machine.execSreset s
  | .illegalCmd word => Sys2Proof.Machine.execIllegalCmd word s
  | .load => Sys2Proof.Machine.execLoad s
  | .expand idx => Sys2Proof.Machine.execExpand idx s
  | .round idx => Sys2Proof.Machine.execRound idx s
  | .feedfwd => Sys2Proof.Machine.execFeedfwd s
  | .add32 x1 x2 x3 x4 x5 => Sys2Proof.Machine.execAdd32 x1 x2 x3 x4 x5 s
  | .rotr x n => Sys2Proof.Machine.execRotr x n s
  | .shr x n => Sys2Proof.Machine.execShr x n s
  | .xor32 x1 x2 x3 => Sys2Proof.Machine.execXor32 x1 x2 x3 s
  | .and32 x y => Sys2Proof.Machine.execAnd32 x y s
  | .not32 x => Sys2Proof.Machine.execNot32 x s
  | .ch x y z => Sys2Proof.Machine.execCh x y z s
  | .maj x y z => Sys2Proof.Machine.execMaj x y z s
  | .bsig0 x => Sys2Proof.Machine.execBsig0 x s
  | .bsig1 x => Sys2Proof.Machine.execBsig1 x s
  | .ssig0 x => Sys2Proof.Machine.execSsig0 x s
  | .ssig1 x => Sys2Proof.Machine.execSsig1 x s

end Sys2Proof.Machine
end

