-- ==== Sys2Proof/Machine/Fetch.lean ====
section
/-! DEFINITION. What the next step is: the next event of the environment, decoded (30_encoding.md R111), or, with no
event pending, the sequencer's next micro-op while BUSY (42_compress.md R185, R190). -/

namespace Sys2Proof.Machine

open Sys2Proof

/-- What a step does: run an instruction, take the reset input, wait, or refuse. -/
inductive Fetched where
  | run (i : Instr)
  | hardReset (draw : Draw)
  | wait
  | refuse (r : Refusal)
deriving DecidableEq, Repr

/-- The refusal of a word the decoder rejects. -/
def refusalOf : DecodeError → Refusal
  | .reservedMicroOp word    => .reservedMicroOp word
  | .reservedAluFunction fn  => .reservedAluFunction fn

/-- The instruction a coded word decodes to. -/
def fetchCode (c : Code) : Fetched :=
  match decode c with
  | .ok i    => .run i
  | .error e => .refuse (refusalOf e)

/-- uop(MSTEP) (R107); MSTEP has no value above 113 (10_state.md R29). -/
def uop (mstep : BitVec 7) : Option (BitVec 8) :=
  let n := mstep.toNat
  if n = 0 then some (0b00#2 ++ 0#6)
  else if n ≤ 48 then some (0b01#2 ++ BitVec.ofNat 6 (n - 1))
  else if n ≤ 112 then some (0b10#2 ++ BitVec.ofNat 6 (n - 49))
  else if n = 113 then some (0b11#2 ++ 0#6)
  else none

/-- The sequencer's step: enabled if and only if STATE = BUSY (R185). -/
def fetchCore (s : State) : Fetched :=
  if s.phase = .busy then
    match uop s.mstep with
    | some word => fetchCode (.uop word)
    | none      => .refuse (.noMicroOp s.mstep)
  else .wait

/-- A host access spelled by its byte address (20_memory.md R77, R80). -/
def fetchBus (cfg : Config) (we : Bool) (addr : Nat) (wdata : Word) : Fetched :=
  match windowAddr cfg addr with
  | some waddr => fetchCode (.bus (busCode we waddr) wdata)
  | none       => .refuse (.noSuchAccess addr)

/-- What the next step does. -/
def fetch (s : State) : Fetched :=
  match s.inputs with
  | []                          => fetchCore s
  | .core :: _                  => fetchCore s
  | .port code wdata :: _       => fetchCode (.bus code wdata)
  | .bus we addr wdata :: _     => fetchBus s.cfg we addr wdata
  | .reset d :: _               => .hardReset d
  | .alu fn ops :: _            => fetchCode (.alu fn ops)

/-- The MSTEP at which the sequencer performs a micro-op word (R107). No MSTEP gives a reserved word (R108); the MSTEP
here for one is DESIGN CHOICE (log 11). -/
def mstepOf (word : BitVec 8) : BitVec 7 :=
  let cls := word.toNat / 64
  let idx := word.toNat % 64
  if cls = 0 then 0#7
  else if cls = 1 then BitVec.ofNat 7 (idx + 1)
  else if cls = 2 then BitVec.ofNat 7 (idx + 49)
  else 113#7

/-- The state in which the very next step runs a coded word: its access is the next event (a command word is the
data word of a write to CMD), or the sequencer is BUSY at the word's micro-step and has the next turn. (log 11). -/
def presentCode (c : Code) (s : State) : State :=
  match c with
  | .bus code wdata => { s with inputs := .port code wdata :: s.inputs }
  | .cmd word       => { s with inputs := .port 0x41#7 word :: s.inputs }
  | .uop word       => { s with phase := .busy, mstep := mstepOf word, inputs := .core :: s.inputs }
  | .alu fn ops     => { s with inputs := .alu fn ops :: s.inputs }

end Sys2Proof.Machine
end

