-- ==== Sys2Proof/Machine/Step.lean ====
section
/-! DEFINITION. One step of the machine, and the placing of a word where the step fetches its next instruction. -/

namespace Sys2Proof.Machine

/-- One step: the next event is taken off the list, and what the fetch gave is done. A block with no event pending
that is not BUSY waits (70_reset_and_hazards.md R341). -/
def step (s : State) : Host.Outcome State Fault Refusal :=
  match fetch s with
  | .run i       => exec i (consume s)
  | .hardReset d => .next (hardReset d (consume s))
  | .wait        => .next (consume s)
  | .refuse r    => .refused r

/-- s with the table's word w (of nbits bits) placed so that the very next step runs it (log 11). -/
def State.withFetchWord (s : State) (nbits w : Nat) : State := presentCode (Sys2Proof.tableCode nbits w) s

end Sys2Proof.Machine
end

