-- ==== Sys2Proof/Machine/HostRef.lean ====
section
/-! DEFINITION. The functions the spec states of whole blocks and messages: Sched (41_schedule.md R160), Compress
(42_compress.md R188), and the host-reference functions Pad, the block split, Pack, Serialise, Hex and SHA256
(45_host_reference.md R281 to R288). They are host software and pure functions: no step calls them. -/

namespace Sys2Proof.Machine

open Sys2Proof

/-! ## Blocks -/

/-- `n` more schedule words, onto a schedule held newest word first (R160). On fewer than 16 words a missing word reads
as 0: DESIGN CHOICE (log 21); schedOf starts from 16. -/
def extendSchedule : Nat → List Word → List Word
  | 0, ws     => ws
  | n + 1, ws =>
    extendSchedule n (add32 [ssig1 (ws.getD 1 0#32), ws.getD 6 0#32, ssig0 (ws.getD 14 0#32), ws.getD 15 0#32] :: ws)

/-- Sched(B) (R160): W[0..63] of a block, in order. -/
def schedOf (blk : Vector Word 16) : List Word := (extendSchedule 48 blk.toList.reverse).reverse

/-- One round of the compression as a function of the registers (R181). -/
def roundStep (v : Vector Word 8) (kw : Word × Word) : Vector Word 8 :=
  roundRegs v (roundT1 v kw.1 kw.2) (roundT2 v)

/-- Compress(H_in, W) (R188): the 64 rounds from H_in, then the feed-forward. A schedule of another length than 64,
which R188 does not have, gives as many rounds as it has words, 64 at most: DESIGN CHOICE (log 21). -/
def compress (hash : Vector Word 8) (ws : List Word) : Vector Word 8 :=
  feedForward hash ((kTable.zip ws).foldl roundStep hash)

/-! ## Messages -/

/-- BE64(n): the 8 bytes of n, most significant first (R281). -/
def be64 (n : BitVec 64) : List Byte :=
  [n.extractLsb' 56 8, n.extractLsb' 48 8, n.extractLsb' 40 8, n.extractLsb' 32 8,
   n.extractLsb' 24 8, n.extractLsb' 16 8, n.extractLsb' 8 8, n.extractLsb' 0 8]

/-- BE32(w): the 4 bytes of a word, most significant first (R286). -/
def be32 (w : Word) : List Byte := [w.extractLsb' 24 8, w.extractLsb' 16 8, w.extractLsb' 8 8, w.extractLsb' 0 8]

/-- Pad(M) (R281); a message of 2^61 bytes or more has no padding (R289). -/
def pad (msg : List Byte) : Option (List Byte) :=
  if msg.length < 2 ^ 61 then
    some (msg ++ [0x80#8] ++ List.replicate ((zeroPadBits (8 * msg.length) - 7) / 8) 0x00#8
      ++ be64 (BitVec.ofNat 64 (8 * msg.length)))
  else none

/-- Block j of a padded message: bytes 64j to 64j + 63 (R283). A block index the message does not have gives the empty
list: DESIGN CHOICE (log 21); messageBlocks asks for j < block_count only. -/
def blockBytes (padded : List Byte) (j : Nat) : List Byte := (padded.drop (64 * j)).take 64

/-- The big-endian word of four bytes (20_memory.md R72). A byte the list does not have reads as 0, a value no rule
gives: DESIGN CHOICE (log 21). -/
def packWord (bytes : List Byte) (t : Nat) : Word :=
  bytes.getD (4 * t) 0#8 ++ bytes.getD (4 * t + 1) 0#8 ++ bytes.getD (4 * t + 2) 0#8 ++ bytes.getD (4 * t + 3) 0#8

/-- Pack(B) of a block of 64 bytes (R284). The rule says that a shorter block cannot be packed and says nothing of a
longer one: here a missing byte reads as 0 and bytes past the 64th are dropped. DESIGN CHOICE (log 21); messageBlocks
packs blocks of 64 bytes only. -/
def pack (bytes : List Byte) : Vector Word 16 :=
  #v[packWord bytes 0, packWord bytes 1, packWord bytes 2, packWord bytes 3, packWord bytes 4, packWord bytes 5,
     packWord bytes 6, packWord bytes 7, packWord bytes 8, packWord bytes 9, packWord bytes 10, packWord bytes 11,
     packWord bytes 12, packWord bytes 13, packWord bytes 14, packWord bytes 15]

/-- The BLK words of every block of a message, in padded order (R283, R284). -/
def messageBlocks (msg : List Byte) : Option (List (Vector Word 16)) :=
  (pad msg).map fun p => (List.range (blockCount msg.length)).map fun j => pack (blockBytes p j)

/-- Serialise(HASH) (R286, 20_memory.md R73). -/
def serialise (hash : Vector Word 8) : List Byte := hash.toList.flatMap be32

/-- The lowercase hexadecimal digit of a nibble (R287). -/
def hexDigit (n : BitVec 4) : Char :=
  ['0', '1', '2', '3', '4', '5', '6', '7', '8', '9', 'a', 'b', 'c', 'd', 'e', 'f'].getD n.toNat '0'

/-- Hex(Digest) (R287): two digits a byte, the most significant nibble first. -/
def hexChars (bytes : List Byte) : List Char :=
  bytes.flatMap fun b => [hexDigit (b.extractLsb' 4 4), hexDigit (b.extractLsb' 0 4)]

def hex (bytes : List Byte) : String := String.ofList (hexChars bytes)

/-- HASH after a run over blocks: block 0 starts from H0 and each later block from its predecessor (R187, R188). -/
def chain (blocks : List (Vector Word 16)) : Vector Word 8 := blocks.foldl (fun h b => compress h (schedOf b)) h0

/-- SHA256(M) (R288), for a message below 2^61 bytes. -/
def sha256 (msg : List Byte) : Option (List Byte) := (messageBlocks msg).map fun bs => serialise (chain bs)

end Sys2Proof.Machine
end

