-- ==== Sys2Proof/Safety.lean ====
section
/-! DEFINITION. What claims are stated in: the invariant every step keeps (10_state.md R28, R29, R33, R46,
44_trace.md R250, R257), the events that spell an access or a function, the machine with its trace taken away, and a
run. -/

namespace Sys2Proof.Machine

open Sys2Proof

/-- The invariants of the state. The four clauses on STATE are R28's; the rest rule out what no run reaches. -/
structure StateInv (s : State) : Prop where
  /-- In IDLE: BLKCOUNT = 0, BLKDONE = 0, TRACE_ON = 0 and MSTEP = 0 (R28). -/
  idleClear   : s.phase = .idle → s.blkcount = 0#64 ∧ s.blkdone = 0#64 ∧ s.traceOn = false ∧ s.mstep = 0#7
  /-- In READY and BUSY: 0 <= BLKDONE < BLKCOUNT (R28). -/
  runOpen     : s.phase = .ready ∨ s.phase = .busy → s.blkdone.toNat < s.blkcount.toNat
  /-- In DONE: BLKDONE = BLKCOUNT >= 1 (R28). -/
  runDone     : s.phase = .done → s.blkdone = s.blkcount ∧ 1 ≤ s.blkcount.toNat
  /-- Outside BUSY: MSTEP = 0 (R28). -/
  stepZero    : s.phase ≠ .busy → s.mstep = 0#7
  /-- MSTEP is 0..113 (R29). -/
  stepBound   : s.mstep.toNat ≤ 113
  /-- BLKCOUNT <= 2^55 + 1 (R46). -/
  countBound  : s.blkcount.toNat ≤ 2 ^ 55 + 1
  /-- A traced run fits the trace storage: BLKCOUNT <= TRACE_CAP (44_trace.md R250). -/
  traceFits   : s.traceOn = true → s.blkcount.toNat ≤ s.cfg.traceCap
  /-- In a run the PADINFO latch holds the metrics of a length below 2^61, and BLKCOUNT is its block_count
  (R33, R34). -/
  latchOfRun  : s.phase ≠ .idle → s.blkcount = s.padinfo.blockCount.setWidth 64 ∧
    ∃ len : BitVec 64, len.toNat < 2 ^ 61 ∧ s.padinfo = padInfo len
  /-- The trace storage is in its canonical form, inside its TRACE_CAP records (R251, log 9). -/
  traceWf     : Trace.wf s.trace = true
  traceInside : Trace.inside s.cfg.traceCap s.trace = true

/-- The events that spell something the block can carry (20_memory.md R77, 30_encoding.md R109). -/
def Input.spells (cfg : Config) : Input → Bool
  | .port _ _      => true
  | .bus _ addr _  => (windowAddr cfg addr).isSome
  | .core          => true
  | .reset _       => true
  | .alu fn _      => decide (fn.toNat < 12)

/-- What a block in progress has computed so far, by its MSTEP (41_schedule.md R161, R162, R164, 42_compress.md R181,
R185): nothing is said before LOAD, nor of a block that is not BUSY. -/
structure BlockInv (s : State) : Prop where
  /-- After LOAD the first 16 schedule words are the block in BLK. -/
  loaded   : s.phase = .busy → 1 ≤ s.mstep.toNat → ∀ t : Fin 16, s.w[t.val] = s.blk[t]
  /-- EXPAND t, at MSTEP t - 15, has written W[t] by the recurrence; t = n + 16. -/
  expanded : s.phase = .busy → ∀ n : Fin 48, n.val + 2 ≤ s.mstep.toNat →
    s.w[n.val + 16] = ssig1 s.w[n.val + 14] + s.w[n.val + 9] + ssig0 s.w[n.val + 1] + s.w[n.val]
  /-- The working registers are HASH after the rounds done so far, MSTEP - 49 of them (none up to MSTEP 49). -/
  rounds   : s.phase = .busy → 1 ≤ s.mstep.toNat →
    s.v = ((kTable.zip s.w.toList).take (s.mstep.toNat - 49)).foldl roundStep s.hash

/-- The machine with its trace taken away: TRACE_ON = 0 and nothing stored (42_compress.md R189). -/
def State.untraced (s : State) : State := { s with traceOn := false, trace := [] }

/-- Two states that differ at most in TRACE_ON, in the trace storage, and in the last word read (STATUS and TRDATA
show the trace). -/
def sameButTrace (s t : State) : Prop := { s.untraced with rdata := 0#32 } = { t.untraced with rdata := 0#32 }

/-- `n` steps, as long as each answers a next state. -/
def runSteps : Nat → State → Option State
  | 0, s     => some s
  | n + 1, s =>
    match step s with
    | .next s'   => runSteps n s'
    | .fault _   => none
    | .refused _ => none

/-- The part of the state that a block in progress is computed from and written to (20_memory.md R83): everything of
R20 but ERR and TRIDX. -/
def sameBlock (s t : State) : Prop :=
  t.cfg = s.cfg ∧ t.v = s.v ∧ t.t1 = s.t1 ∧ t.t2 = s.t2 ∧ t.w = s.w ∧ t.blk = s.blk ∧ t.hash = s.hash ∧
  t.phase = s.phase ∧ t.mstep = s.mstep ∧ t.traceOn = s.traceOn ∧ t.msglen = s.msglen ∧ t.padinfo = s.padinfo ∧
  t.blkcount = s.blkcount ∧ t.blkdone = s.blkdone ∧ t.trace = s.trace

end Sys2Proof.Machine
end

