-- ==== Sys2Proof/Certificates/Slice0/Obligations.lean ====
section
/-! DEFINITION. What is stated about the block for the provers. Each docstring names the rules of spec/ it
formalises, or the sections it rests on. -/

open Sys2Proof Sys2Proof.Machine

/-! ## Encoding -/

/-- Decoding the coded word of a well-formed instruction gives it back, with every operand at every value
(30_encoding.md R101 to R109). -/
def Obligations.DecodeEncodeRoundTrip : Prop :=
  ∀ i : Instr, i.wellFormed = true → decode (encode i) = .ok i

/-- An instruction the decoder reads is well formed, and its own coded word is in the same place and has the same
bits as the one it was read from. -/
def Obligations.EncodeDecodeAgree : Prop :=
  ∀ (c : Code) (i : Instr), decode c = .ok i →
    i.wellFormed = true ∧ (encode i).format = c.format ∧ (encode i).bits = c.bits

/-- Words written out bit by bit from R101, R104, R107 and R109. -/
def Obligations.SampleWordsDecode : Prop :=
  decode (.bus 0b0000000#7 0#32) = .ok .rdId ∧
  decode (.bus 0b1010011#7 0xDEADBEEF#32) = .ok (.wrBlk 3 0xDEADBEEF#32) ∧
  decode (.bus 0b1000101#7 7#32) = .ok (.wrMsglen true 7#32) ∧
  decode (.bus 0b0100101#7 0#32) = .ok (.rdHash 5) ∧
  decode (.bus 0b1110000#7 0x000003C0#32) = .ok (.wrTridx 0x000003C0#32) ∧
  decode (.bus 0b0111111#7 0#32) = .ok (.rsv383F false 7 0#32) ∧
  decode (.cmd 0x00000011#32) = .ok .startT ∧
  decode (.cmd 0x00000012#32) = .ok (.illegalCmd 0x00000012#32) ∧
  decode (.uop 0b01101111#8) = .ok (.expand 47) ∧
  decode (.uop 0b10111111#8) = .ok (.round 63) ∧
  decode (.uop 0b11000000#8) = .ok .feedfwd ∧
  decode (.alu 0b0110#4 { AluIn.zero with x1 := 1#32, x2 := 2#32, x3 := 3#32 }) = .ok (.ch 1#32 2#32 3#32)

/-- Every one of the 128 format-B codes lies in exactly one row of the table, the row of the instruction it decodes
to (R102). -/
def Obligations.AccessCodesLieInOneRow : Prop :=
  ∀ (code : BitVec 7) (wdata : Word), ∃ r ∈ busRows,
    r.holds (.bus code wdata) = true ∧ r.mnemonic = (decodeBus code wdata).mnemonic ∧
    ∀ r' ∈ busRows, r'.holds (.bus code wdata) = true → r' = r

/-- R104: the three conditions of legality, the five legal words and the command each one is, and the effect of an
illegal word in every state. -/
def Obligations.CommandWordLegality : Prop :=
  ∀ (w : Word) (s : State),
    let op := w.extractLsb' 0 4
    let legal := (op = 0x0#4 ∨ op = 0x1#4 ∨ op = 0x2#4 ∨ op = 0xF#4) ∧ w.extractLsb' 5 27 = 0#27 ∧
      (w.extractLsb' 4 1 = 0#1 ∨ op = 0x1#4)
    (legal ↔ w ∈ [0x00000000#32, 0x00000001#32, 0x00000011#32, 0x00000002#32, 0x0000000F#32]) ∧
    (w = 0x00000000#32 → decode (.cmd w) = .ok .nop) ∧
    (w = 0x00000001#32 → decode (.cmd w) = .ok .start) ∧
    (w = 0x00000011#32 → decode (.cmd w) = .ok .startT) ∧
    (w = 0x00000002#32 → decode (.cmd w) = .ok .block) ∧
    (w = 0x0000000F#32 → decode (.cmd w) = .ok .sreset) ∧
    (¬ legal → decode (.cmd w) = .ok (.illegalCmd w) ∧
      exec (.wrCmd w) s = .next { s with err := .illegalCmd })

/-- The micro-op word of each MSTEP of R107's mapping, and the reserved words of R108, which the decoder refuses and
uop() never gives. That there is no word above MSTEP 113, a value R29 excludes, is the model's (log 7, DEDUCED). -/
def Obligations.MicroOpWords : Prop :=
  (∀ m : BitVec 7, m.toNat ≤ 113 → ∃ w i, uop m = some w ∧ decode (.uop w) = .ok i ∧
    w.toNat = if m.toNat = 0 then 0b00 * 64 else if m.toNat ≤ 48 then 0b01 * 64 + (m.toNat - 1)
      else if m.toNat ≤ 112 then 0b10 * 64 + (m.toNat - 49) else 0b11 * 64) ∧
  (∀ m : BitVec 7, 113 < m.toNat → uop m = none) ∧
  (∀ w : BitVec 8, decode (.uop w) = .error (.reservedMicroOp w) ↔
    (w.extractLsb' 6 2 = 0b00#2 ∧ w.extractLsb' 0 6 ≠ 0#6) ∨
    (w.extractLsb' 6 2 = 0b01#2 ∧ 48 ≤ (w.extractLsb' 0 6).toNat) ∨
    (w.extractLsb' 6 2 = 0b11#2 ∧ w.extractLsb' 0 6 ≠ 0#6))

/-- R109's table, its reserved codes, and that a step on a reserved code is refused. -/
def Obligations.AluFunctionSelect : Prop :=
  ∀ o : AluIn,
    [0x0#4, 0x1#4, 0x2#4, 0x3#4, 0x4#4, 0x5#4, 0x6#4, 0x7#4, 0x8#4, 0x9#4, 0xA#4, 0xB#4].map (fun fn => decode (.alu fn o)) =
      [.ok (.add32 o.x1 o.x2 o.x3 o.x4 o.x5), .ok (.rotr o.x1 o.n), .ok (.shr o.x1 o.n), .ok (.xor32 o.x1 o.x2 o.x3),
       .ok (.and32 o.x1 o.x2), .ok (.not32 o.x1), .ok (.ch o.x1 o.x2 o.x3), .ok (.maj o.x1 o.x2 o.x3),
       .ok (.bsig0 o.x1), .ok (.bsig1 o.x1), .ok (.ssig0 o.x1), .ok (.ssig1 o.x1)] ∧
    ∀ (fn : BitVec 4) (s : State) (rest : List Input), 0xC ≤ fn.toNat → s.inputs = .alu fn o :: rest →
      step s = .refused (.reservedAluFunction fn)

/-! ## Reset and the invariant -/

/-- R55's table, both columns, and R218: the reset input and SRESET set the same control state; reset takes every
element R55 leaves unspecified, the trace storage included, from the draw, and SRESET keeps them; no trace entry is
valid after either; ID and CAP do not change. That reset is one event which carries the draw (the drawn trace brought
into the storage's canonical form) and keeps the rest of the event list is the model's choice (log 8, log 3). -/
def Obligations.ResetAndSoftReset : Prop :=
  (∀ (s : State) (d : Draw) (rest : List Input), s.inputs = .reset d :: rest →
    ∃ r, step s = .next r ∧
      r.phase = .idle ∧ r.mstep = 0#7 ∧ r.traceOn = false ∧ r.err = .none ∧ r.msglen = 0#64 ∧ r.blkcount = 0#64 ∧
      r.blkdone = 0#64 ∧ r.tridx.toWord = 0#32 ∧
      r.padinfo = d.padinfo ∧ r.blk = d.blk ∧ r.hash = d.hash ∧ r.w = d.w ∧ r.v = d.v ∧ r.t1 = d.t1 ∧ r.t2 = d.t2 ∧
      r.trace = Trace.ofCells s.cfg.traceCap d.trace ∧
      (∀ x, trValid { r with tridx := x } = false) ∧ r.cfg = s.cfg ∧ r.inputs = rest) ∧
  (∀ s : State, ∃ r, exec .sreset s = .next r ∧
      r = { s with phase := .idle, mstep := 0#7, traceOn := false, err := .none, msglen := 0#64, blkcount := 0#64
                   blkdone := 0#64, tridx := TrIdx.ofWord 0#32 } ∧
      ∀ x, trValid { r with tridx := x } = false) ∧
  (∀ s : State, exec .rdId s = .next { s with rdata := 0x53323536#32 } ∧
      exec .rdCap s = .next { s with rdata := BitVec.ofNat 32 s.cfg.traceCap })

/-- The state right after reset has the control values of R55, no trace entry valid, and meets the invariant. -/
def Obligations.ResetStateMeetsInvariant : Prop :=
  StateInv State.reset ∧ State.reset.phase = .idle ∧ State.reset.mstep = 0#7 ∧ State.reset.traceOn = false ∧
  State.reset.err = .none ∧ State.reset.msglen = 0#64 ∧ State.reset.blkcount = 0#64 ∧ State.reset.blkdone = 0#64 ∧
  State.reset.tridx.toWord = 0#32 ∧ ∀ x, trValid { State.reset with tridx := x } = false

/-- Every step keeps the invariant (10_state.md R28 "Invariants kept by every rule", R29, R33, R46;
44_trace.md R250; the trace storage's canonical form, log 9). -/
def Obligations.StepKeepsInvariant : Prop :=
  ∀ s t : State, StateInv s → step s = .next t → StateInv t

/-- No step is refused or faults in a state that meets the invariant, if the next event spells an access or a
function (93_implementation_defined.md: "Every host access in every state has a defined step, and the sequencer
always has a step while BUSY"). -/
def Obligations.EveryEventHasAStep : Prop :=
  ∀ s : State, StateInv s → (∀ e ∈ s.inputs.head?, e.spells s.cfg = true) → ∃ t, step s = .next t

/-! ## Steps -/

/-- The window: byte address BASE + 4a, a = 0..63, is the access at word address a; any other address spells no
access (20_memory.md R77, R80). -/
def Obligations.BusAddressWindow : Prop :=
  ∀ (s : State) (we : Bool) (addr : Nat) (wdata : Word) (rest : List Input),
    s.inputs = .bus we addr wdata :: rest →
    (∀ a, a < 64 → addr = s.cfg.base + 4 * a →
      step s = exec (decodeBus (BitVec.ofNat 7 ((if we then 64 else 0) + a)) wdata) { s with inputs := rest }) ∧
    ((∀ a, a < 64 → addr ≠ s.cfg.base + 4 * a) → step s = .refused (.noSuchAccess addr))

/-- A step on a host access or on an ALU evaluation runs the instruction it decodes to, once the event is taken off
the list (30_encoding.md R111). -/
def Obligations.StepRunsDecodedAccess : Prop :=
  (∀ (s : State) (code : BitVec 7) (wdata : Word) (rest : List Input) (i : Instr),
    s.inputs = .port code wdata :: rest → decode (.bus code wdata) = .ok i →
    step s = exec i { s with inputs := rest }) ∧
  (∀ (s : State) (fn : BitVec 4) (o : AluIn) (rest : List Input) (i : Instr),
    s.inputs = .alu fn o :: rest → decode (.alu fn o) = .ok i → step s = exec i { s with inputs := rest })

/-- R185: the sequencer has an enabled step if and only if BUSY, and it performs the micro-op of MSTEP; every one
but FEEDFWD advances MSTEP by one and stays BUSY, FEEDFWD returns it to 0 and leaves BUSY. With no event pending the
sequencer still has its turn (log 4). -/
def Obligations.StepRunsMicroOp : Prop :=
  ∀ s : State, (s.inputs = [] ∨ ∃ rest, s.inputs = .core :: rest) →
    let s' := { s with inputs := s.inputs.tail }
    (s.phase ≠ .busy → step s = .next s') ∧
    (s.phase = .busy → s.mstep.toNat ≤ 113 →
      (s.mstep.toNat = 0 → step s = exec .load s') ∧
      (∀ idx : Fin 48, s.mstep.toNat = idx.val + 1 → step s = exec (.expand idx) s') ∧
      (∀ i : Fin 64, s.mstep.toNat = i.val + 49 → step s = exec (.round i) s') ∧
      (s.mstep.toNat = 113 → step s = exec .feedfwd s') ∧
      ∃ t, step s = .next t ∧
        (s.mstep.toNat < 113 → t.mstep.toNat = s.mstep.toNat + 1 ∧ t.phase = .busy) ∧
        (s.mstep.toNat = 113 → t.mstep = 0#7 ∧ t.phase ≠ .busy))

/-! ## Register reads and writes -/

/-- The reads of plain registers: the register's word on RDATA and no other change (43_commands.md R214;
10_state.md R41, R42, R45 to R50). -/
def Obligations.PlainReads : Prop :=
  ∀ (s : State) (hi : Bool) (t : Fin 16) (k : Fin 8),
    let halfOf := fun (x : BitVec 64) => if hi then x.toNat / 2 ^ 32 else x.toNat % 2 ^ 32
    exec .rdId s = .next { s with rdata := 0x53323536#32 } ∧
    exec .rdCmd s = .next { s with rdata := 0#32 } ∧
    (∃ v, exec (.rdMsglen hi) s = .next { s with rdata := v } ∧ v.toNat = halfOf s.msglen) ∧
    (∃ v, exec (.rdBlkcount hi) s = .next { s with rdata := v } ∧ v.toNat = halfOf s.blkcount) ∧
    (∃ v, exec (.rdBlkdone hi) s = .next { s with rdata := v } ∧ v.toNat = halfOf s.blkdone) ∧
    (∃ v, exec .rdCap s = .next { s with rdata := v } ∧ v.toNat = s.cfg.traceCap ∧ 1 ≤ v.toNat ∧ v.toNat ≤ 65536) ∧
    exec (.rdBlk t) s = .next { s with rdata := s.blk[t] } ∧
    exec (.rdHash k) s = .next { s with rdata := s.hash[k] }

/-- R43: the fields of STATUS, its reserved bits, its value at reset, and that a write to it is ignored. -/
def Obligations.StatusRead : Prop :=
  ∀ s : State, (∃ v : Word, exec .rdStatus s = .next { s with rdata := v } ∧
      v.extractLsb' 0 2 = (match s.phase with | .idle => 0#2 | .ready => 1#2 | .busy => 2#2 | .done => 3#2) ∧
      v.getLsbD 2 = s.traceOn ∧ v.getLsbD 3 = trValid s ∧ v.extractLsb' 4 4 = 0#4 ∧
      v.extractLsb' 8 4 = (match s.err with
        | .none => 0#4 | .msgTooLarge => 1#4 | .traceCapacity => 2#4 | .badSequence => 3#4 | .busy => 4#4
        | .illegalCmd => 5#4) ∧
      v.extractLsb' 12 20 = 0#20) ∧
    (∀ wdata, exec (.wrStatus wdata) s = .next s) ∧
    exec .rdStatus State.reset = .next { State.reset with rdata := 0#32 }

/-- R44: PROGRESS is MSTEP in its low seven bits, 0 at reset, and a write to it is ignored. -/
def Obligations.ProgressRead : Prop :=
  ∀ s : State, (∃ v : Word, exec .rdProgress s = .next { s with rdata := v } ∧ v.toNat = s.mstep.toNat) ∧
    (∀ wdata, exec (.wrProgress wdata) s = .next s) ∧
    exec .rdProgress State.reset = .next { State.reset with rdata := 0#32 }

/-- R51, R106, R213: TRIDX is 0 at reset; a write to it stores the four fields of format X and drops bits [15:12],
in every state, and a read returns WDATA & 0xFFFF0FFF. -/
def Obligations.TridxWriteRead : Prop :=
  State.reset.tridx.toWord = 0#32 ∧
  ∀ (s : State) (w : Word), ∃ x : TrIdx, exec (.wrTridx w) s = .next { s with tridx := x } ∧
    x.index = w.extractLsb' 0 6 ∧ x.sect = w.extractLsb' 6 2 ∧ x.field = w.extractLsb' 8 4 ∧
    x.block = w.extractLsb' 16 16 ∧
    exec .rdTridx { s with tridx := x } = .next { s with tridx := x, rdata := w &&& 0xFFFF0FFF#32 }

/-- 44_trace.md sections 2 and 3: the valid predicate (R257, with R256's estep, which the spec marks derived) on the
fields of TRIDX as the spec writes it, and the word a read of TRDATA returns (R258). -/
def Obligations.TraceDataRead : Prop :=
  ∀ s : State,
    let x := s.tridx
    let estep := if x.sect = 1#2 then 0
      else if x.sect = 2#2 then (if x.index.toNat < 16 then 0 else x.index.toNat - 15) else 49 + x.index.toNat
    trValid s =
      (if s.traceOn = false ∨ s.phase = .idle then false
       else if x.sect = 0#2 then decide (x.index.toNat ≤ 9)
       else if x.sect = 1#2 ∧ x.index.toNat > 15 then false
       else if x.sect = 3#2 ∧ x.field.toNat > 12 then false
       else if x.block.toNat < s.blkdone.toNat then true
       else if x.block.toNat = s.blkdone.toNat ∧ s.phase = .busy then decide (estep < s.mstep.toNat)
       else false) ∧
    ∃ v, exec .rdTrdata s = .next { s with rdata := v } ∧
      (trValid s = false → v = 0#32) ∧
      (trValid s = true → x.sect = 0#2 → v = s.padinfo.item x.index.toNat) ∧
      (trValid s = true → x.sect = 1#2 → ∀ t : Fin 16, t.val = x.index.toNat →
        v = Trace.read s.trace x.block.toNat (.initial t)) ∧
      (trValid s = true → x.sect = 2#2 → ∀ t : Fin 64, t.val = x.index.toNat →
        v = Trace.read s.trace x.block.toNat (.sched t)) ∧
      (trValid s = true → x.sect = 3#2 → ∀ (i : Fin 64) (f : Fin 13), i.val = x.index.toNat → f.val = x.field.toNat →
        v = Trace.read s.trace x.block.toNat (.round i f))

/-- R253: the ten items of trace section 0, by the numbers in the latch. -/
def Obligations.PaddingItemsRead : Prop :=
  ∀ s : State, s.traceOn = true → s.phase ≠ .idle → s.tridx.sect = 0#2 → s.tridx.index.toNat ≤ 9 →
    ∃ v : Word, exec .rdTrdata s = .next { s with rdata := v } ∧
      [s.padinfo.dataBits.toNat % 2 ^ 32, s.padinfo.dataBits.toNat / 2 ^ 32, 1, s.padinfo.zeroPadBits.toNat, 64,
       s.padinfo.totalBits.toNat % 2 ^ 32, s.padinfo.totalBits.toNat / 2 ^ 32 % 2 ^ 32, s.padinfo.totalBits.toNat / 2 ^ 64,
       s.padinfo.blockCount.toNat % 2 ^ 32, s.padinfo.blockCount.toNat / 2 ^ 32][s.tridx.index.toNat]? = some v.toNat

/-- R53, R224: a write to an RO register or to a reserved address is ignored in every state; a read of CMD or of a
reserved address returns 0 and changes nothing else. -/
def Obligations.IgnoredWritesAndReservedReads : Prop :=
  ∀ (s : State) (w : Word) (hi : Bool) (k : Fin 8) (l2 : Fin 2) (l4 : Fin 4) (l8 : Fin 8),
    (∀ i ∈ [Instr.wrId w, .wrStatus w, .wrProgress w, .wrBlkcount hi w, .wrBlkdone hi w, .wrCap w, .wrHash k w,
        .wrTrdata w, .rsv0B true w, .rsv0C0F true l4 w, .rsv282F true l8 w, .rsv3233 true l2 w, .rsv3437 true l4 w,
        .rsv383F true l8 w],
      exec i s = .next s) ∧
    (∀ i ∈ [Instr.rdCmd, .rsv0B false w, .rsv0C0F false l4 w, .rsv282F false l8 w, .rsv3233 false l2 w,
        .rsv3437 false l4 w, .rsv383F false l8 w],
      exec i s = .next { s with rdata := 0#32 })

/-- R210, R211: outside BUSY a write to BLK[t] changes that word and nothing else, and a write to a half of MSGLEN
that half and nothing else; in BUSY each raises Err(BUSY). -/
def Obligations.BlkAndMsglenWrites : Prop :=
  ∀ (s : State) (t : Fin 16) (hi : Bool) (w : Word),
    (s.phase ≠ .busy → ∃ b, exec (.wrBlk t w) s = .next { s with blk := b } ∧
      ∀ j : Fin 16, b[j] = if j = t then w else s.blk[j]) ∧
    (s.phase ≠ .busy → ∃ m, exec (.wrMsglen hi w) s = .next { s with msglen := m } ∧
      m.toNat = if hi then w.toNat * 2 ^ 32 + s.msglen.toNat % 2 ^ 32
        else s.msglen.toNat / 2 ^ 32 * 2 ^ 32 + w.toNat) ∧
    (s.phase = .busy → exec (.wrBlk t w) s = .next { s with err := .busy } ∧
      exec (.wrMsglen hi w) s = .next { s with err := .busy })

/-- R212: while BUSY the refused accesses change no state except ERR <- BUSY, and every other access is accepted as
in any other state: a read changes only RDATA, TRIDX is written, ignored writes and NOP change nothing, SRESET
abandons the block. -/
def Obligations.BusyRule : Prop :=
  ∀ s : State, s.phase = .busy →
    (∀ (t : Fin 16) (hi : Bool) (w : Word),
      ∀ i ∈ [Instr.wrBlk t w, .wrMsglen hi w, .start, .startT, .block, .wrCmd 0x00000001#32, .wrCmd 0x00000011#32,
        .wrCmd 0x00000002#32], exec i s = .next { s with err := .busy }) ∧
    (∀ (t : Fin 16) (k : Fin 8) (hi : Bool),
      ∀ i ∈ [Instr.rdId, .rdCmd, .rdStatus, .rdProgress, .rdMsglen hi, .rdBlkcount hi, .rdBlkdone hi, .rdCap, .rdBlk t,
        .rdHash k, .rdTridx, .rdTrdata], ∃ v, exec i s = .next { s with rdata := v }) ∧
    (∀ w, exec (.wrTridx w) s = .next { s with tridx := TrIdx.ofWord w }) ∧
    (∀ (w : Word) (l2 : Fin 2) (l4 : Fin 4) (l8 : Fin 8), ∀ i ∈ [Instr.rsv0B false w, .rsv0C0F false l4 w,
        .rsv282F false l8 w, .rsv3233 false l2 w, .rsv3437 false l4 w, .rsv383F false l8 w],
      exec i s = .next { s with rdata := 0#32 }) ∧
    (∀ (w : Word) (k : Fin 8) (hi : Bool) (l2 : Fin 2) (l4 : Fin 4) (l8 : Fin 8), ∀ i ∈ [Instr.wrId w, .wrStatus w,
        .wrProgress w, .wrBlkcount hi w, .wrBlkdone hi w, .wrCap w, .wrHash k w, .wrTrdata w, .rsv0B true w,
        .rsv0C0F true l4 w, .rsv282F true l8 w, .rsv3233 true l2 w, .rsv3437 true l4 w, .rsv383F true l8 w, .nop,
        .wrCmd 0x00000000#32], exec i s = .next s) ∧
    (∀ i ∈ [Instr.sreset, .wrCmd 0x0000000F#32], exec i s = .next { s with
      phase := .idle, mstep := 0#7, traceOn := false, err := .none, msglen := 0#64, blkcount := 0#64, blkdone := 0#64
      tridx := TrIdx.ofWord 0#32 })

/-! ## Commands -/

/-- R215: NOP changes nothing in any state, and NOP with TRACE = 1 is illegal. -/
def Obligations.NopHasNoEffect : Prop :=
  ∀ s : State, exec .nop s = .next s ∧ exec (.wrCmd 0x00000000#32) s = .next s ∧
    exec (.wrCmd 0x00000010#32) s = .next { s with err := .illegalCmd }

/-- 43_commands.md sections 2 and 3 (R216, R221, R223): every outcome of START and START.T, the checks in their order,
with the state each leaves. `count` is block_count in the closed form floor((L + 8) / 64) + 1, which R222 gives as
"[derived: from the equations above]". -/
def Obligations.StartOutcomes : Prop :=
  ∀ (s : State) (trace : Bool),
    let i := if trace then Instr.startT else .start
    let count := (s.msglen.toNat + 8) / 64 + 1
    let failed := fun (c : ErrCode) => { s with err := c, phase := .idle, traceOn := false, blkcount := 0#64
                                                blkdone := 0#64, mstep := 0#7 }
    (s.phase = .busy → exec i s = .next { s with err := .busy }) ∧
    (s.phase ≠ .busy → 2 ^ 61 ≤ s.msglen.toNat → exec i s = .next (failed .msgTooLarge)) ∧
    (s.phase ≠ .busy → s.msglen.toNat < 2 ^ 61 → trace = true → s.cfg.traceCap < count →
      exec i s = .next (failed .traceCapacity)) ∧
    (s.phase ≠ .busy → s.msglen.toNat < 2 ^ 61 → (trace = true → count ≤ s.cfg.traceCap) →
      exec i s = .next { s with
        err := .none, traceOn := trace, padinfo := padInfo s.msglen, blkcount := BitVec.ofNat 64 count
        blkdone := 0#64, mstep := 0#7, phase := .ready
        hash := #v[0x6a09e667#32, 0xbb67ae85#32, 0x3c6ef372#32, 0xa54ff53a#32, 0x510e527f#32, 0x9b05688c#32,
                   0x1f83d9ab#32, 0x5be0cd19#32] })

/-- The padding metrics of R222 for every length below 2^61, exactly, at the latch's widths, and the failure of every
other length. The closed form floor((L + 8) / 64) + 1 is the one R222 gives as "[derived: from the equations above]". -/
def Obligations.PaddingMetrics : Prop :=
  ∀ len : BitVec 64,
    (len.toNat < 2 ^ 61 →
      let p := padInfo len
      p.dataBits.toNat = 8 * len.toNat ∧
      p.zeroPadBits.toNat ≤ 511 ∧ (p.dataBits.toNat + 1 + p.zeroPadBits.toNat) % 512 = 448 ∧
      p.totalBits.toNat = p.dataBits.toNat + 1 + p.zeroPadBits.toNat + 64 ∧ p.totalBits.toNat % 512 = 0 ∧
      p.blockCount.toNat * 512 = p.totalBits.toNat ∧ p.blockCount.toNat = (len.toNat + 8) / 64 + 1) ∧
    (2 ^ 61 ≤ len.toNat → ∀ s : State, s.phase ≠ .busy → s.msglen = len →
      (∃ t, exec .start s = .next t ∧ t.err = .msgTooLarge ∧ t.phase = .idle) ∧
      (∃ t, exec .startT s = .next t ∧ t.err = .msgTooLarge ∧ t.phase = .idle))

/-- R217: BLOCK in each state. -/
def Obligations.BlockOutcomes : Prop :=
  ∀ s : State,
    (s.phase = .ready → exec .block s = .next { s with phase := .busy, mstep := 0#7 }) ∧
    (s.phase = .busy → exec .block s = .next { s with err := .busy }) ∧
    (s.phase = .idle ∨ s.phase = .done → exec .block s = .next { s with err := .badSequence })

/-- A write to CMD has the effect of the command row its word decodes to, and it always completes: the model's reading
of the two rows of the table (10_state.md R42, 30_encoding.md R104; log 13, DEDUCED). An illegal word raises
Err(ILLEGAL_CMD) and has no other effect (R219). -/
def Obligations.CommandWriteRunsCommand : Prop :=
  ∀ (s : State) (w : Word),
    (∃ i t, decode (.cmd w) = .ok i ∧ exec (.wrCmd w) s = exec i s ∧ exec (.wrCmd w) s = .next t) ∧
    exec (.illegalCmd w) s = .next { s with err := .illegalCmd }

/-! ## Who writes what -/

/-- ERR changes only by a refused BLK or MSGLEN write and by a command (60_exceptions.md R300, R305): micro-ops, reads
and every other write leave it. -/
def Obligations.ErrChangesOnlyByErrorsAndClears : Prop :=
  ∀ (i : Instr) (s t : State), exec i s = .next t → t.err ≠ s.err →
    (s.phase = .busy ∧ t.err = .busy ∧
      ((∃ n w, i = .wrBlk n w) ∨ (∃ hi w, i = .wrMsglen hi w) ∨ i = .start ∨ i = .startT ∨ i = .block ∨
        i = .wrCmd 0x00000001#32 ∨ i = .wrCmd 0x00000011#32 ∨ i = .wrCmd 0x00000002#32)) ∨
    (t.err = .illegalCmd ∧ ((∃ w, i = .illegalCmd w) ∨ ∃ w, i = .wrCmd w ∧ w ∉ legalCommandWords)) ∨
    (s.phase ≠ .busy ∧ s.phase ≠ .ready ∧ t.err = .badSequence ∧ (i = .block ∨ i = .wrCmd 0x00000002#32)) ∨
    (s.phase ≠ .busy ∧ (t.err = .msgTooLarge ∨ t.err = .traceCapacity ∨ t.err = .none) ∧
      (i = .start ∨ i = .startT ∨ i = .wrCmd 0x00000001#32 ∨ i = .wrCmd 0x00000011#32)) ∨
    (t.err = .none ∧ (i = .sreset ∨ i = .wrCmd 0x0000000F#32))

/-- The "written by" column of R20 for the data elements; the trace storage only while TRACE_ON = 1
(44_trace.md R250). -/
def Obligations.DataElementWriters : Prop :=
  ∀ (i : Instr) (s t : State), exec i s = .next t →
    let starts := i = .start ∨ i = .startT ∨ i = .wrCmd 0x00000001#32 ∨ i = .wrCmd 0x00000011#32
    (t.v ≠ s.v → i = .load ∨ ∃ n, i = .round n) ∧
    (t.t1 ≠ s.t1 ∨ t.t2 ≠ s.t2 → ∃ n, i = .round n) ∧
    (t.w ≠ s.w → i = .load ∨ ∃ n, i = .expand n) ∧
    (t.blk ≠ s.blk → ∃ n x, i = .wrBlk n x) ∧
    (t.hash ≠ s.hash → i = .feedfwd ∨ starts) ∧
    (t.padinfo ≠ s.padinfo → starts) ∧
    (t.trace ≠ s.trace → s.traceOn = true ∧ (i = .load ∨ (∃ n, i = .expand n) ∨ ∃ n, i = .round n))

/-- The "written by" column of R20 for the control elements; the parameters never change, and the model's own RDATA
and ALU lines only by reads and by ALU functions (log 5, log 6). -/
def Obligations.ControlElementWriters : Prop :=
  ∀ (i : Instr) (s t : State), exec i s = .next t →
    let starts := i = .start ∨ i = .startT ∨ i = .wrCmd 0x00000001#32 ∨ i = .wrCmd 0x00000011#32
    let resets := i = .sreset ∨ i = .wrCmd 0x0000000F#32
    let blocks := i = .block ∨ i = .wrCmd 0x00000002#32
    let micro := i = .load ∨ (∃ n, i = .expand n) ∨ (∃ n, i = .round n) ∨ i = .feedfwd
    (t.phase ≠ s.phase → starts ∨ resets ∨ blocks ∨ i = .feedfwd) ∧
    (t.mstep ≠ s.mstep → starts ∨ resets ∨ blocks ∨ micro) ∧
    (t.traceOn ≠ s.traceOn → starts ∨ resets) ∧
    (t.msglen ≠ s.msglen → resets ∨ ∃ hi w, i = .wrMsglen hi w) ∧
    (t.blkcount ≠ s.blkcount → starts ∨ resets) ∧
    (t.blkdone ≠ s.blkdone → starts ∨ resets ∨ i = .feedfwd) ∧
    (t.tridx ≠ s.tridx → resets ∨ ∃ w, i = .wrTridx w) ∧
    t.cfg = s.cfg ∧ t.inputs = s.inputs ∧
    (t.rdata ≠ s.rdata → (encode i).format = .b ∧ (encode i).bits < 64) ∧
    (t.aluOut ≠ s.aluOut → (encode i).format = .f)

/-! ## Micro-ops -/

/-- R161: LOAD copies BLK into W[0..15] and HASH into a..h, sets MSTEP to 1, and, traced, records each word as
initial word and as schedule entry of block BLKDONE; nothing else changes. (A traced block has a record:
44_trace.md R250.) -/
def Obligations.LoadResult : Prop :=
  ∀ s : State, ∃ w tr, exec .load s = .next { s with w := w, v := s.hash, mstep := 1#7, trace := tr } ∧
    (∀ t : Fin 16, w[t.val] = s.blk[t]) ∧
    (∀ t : Fin 64, 16 ≤ t.val → w[t] = s.w[t]) ∧
    (s.traceOn = false → tr = s.trace) ∧
    (s.traceOn = true → s.blkdone.toNat < s.cfg.traceCap → Trace.wf s.trace = true →
      (∀ t : Fin 16, Trace.read tr s.blkdone.toNat (.initial t) = s.blk[t]) ∧
      (∀ t : Fin 64, (h : t.val < 16) → Trace.read tr s.blkdone.toNat (.sched t) = s.blk[t.val]) ∧
      (∀ b a, b ≠ s.blkdone.toNat ∨ (∀ t, a ≠ .initial t) ∧ (∀ t : Fin 64, t.val < 16 → a ≠ .sched t) →
        Trace.read tr b a = Trace.read s.trace b a))

/-- R162: EXPAND t, t = IDX + 16, writes W[t], advances MSTEP, and, traced, records schedule entry t; nothing else
changes. -/
def Obligations.ExpandResult : Prop :=
  ∀ (s : State) (idx : Fin 48), ∃ x w tr,
    exec (.expand idx) s = .next { s with w := w, mstep := s.mstep + 1#7, trace := tr } ∧
    x.toNat = ((ssig1 s.w[idx.val + 14]).toNat + s.w[idx.val + 9].toNat + (ssig0 s.w[idx.val + 1]).toNat
      + s.w[idx.val].toNat) % 2 ^ 32 ∧
    (∀ t : Fin 64, w[t] = if t.val = idx.val + 16 then x else s.w[t]) ∧
    (s.traceOn = false → tr = s.trace) ∧
    (s.traceOn = true → s.blkdone.toNat < s.cfg.traceCap → Trace.wf s.trace = true →
      ∀ b a, Trace.read tr b a = if b = s.blkdone.toNat ∧ a = .sched (Fin.ofNat 64 (idx.val + 16)) then x
        else Trace.read s.trace b a)

/-- R181: ROUND i writes T1, T2 and all eight working registers from the values before it, advances MSTEP, and,
traced, records the thirteen fields of RoundState i; nothing else changes. -/
def Obligations.RoundResult : Prop :=
  ∀ (s : State) (i : Fin 64), ∃ t1 t2 v tr,
    exec (.round i) s = .next { s with v := v, t1 := t1, t2 := t2, mstep := s.mstep + 1#7, trace := tr } ∧
    t1.toNat = (s.v[7].toNat + (bsig1 s.v[4]).toNat + (ch s.v[4] s.v[5] s.v[6]).toNat + (k i).toNat + s.w[i].toNat)
      % 2 ^ 32 ∧
    t2.toNat = ((bsig0 s.v[0]).toNat + (maj s.v[0] s.v[1] s.v[2]).toNat) % 2 ^ 32 ∧
    v[0].toNat = (t1.toNat + t2.toNat) % 2 ^ 32 ∧ v[1] = s.v[0] ∧ v[2] = s.v[1] ∧ v[3] = s.v[2] ∧
    v[4].toNat = (s.v[3].toNat + t1.toNat) % 2 ^ 32 ∧ v[5] = s.v[4] ∧ v[6] = s.v[5] ∧ v[7] = s.v[6] ∧
    (s.traceOn = false → tr = s.trace) ∧
    (s.traceOn = true → s.blkdone.toNat < s.cfg.traceCap → Trace.wf s.trace = true →
      (∀ f : Fin 13, some (Trace.read tr s.blkdone.toNat (.round i f)) =
        [v[0], v[1], v[2], v[3], v[4], v[5], v[6], v[7], t1, t2, k i, s.w[i], BitVec.ofNat 32 i.val][f.val]?) ∧
      (∀ b a, b ≠ s.blkdone.toNat ∨ (∀ f, a ≠ .round i f) → Trace.read tr b a = Trace.read s.trace b a))

/-- R183: FEEDFWD adds the working registers into HASH, counts the block, returns MSTEP to 0 and leaves BUSY for DONE
or READY; nothing else changes, the trace included. -/
def Obligations.FeedfwdResult : Prop :=
  ∀ s : State, ∃ h, exec .feedfwd s = .next { s with
      hash := h, blkdone := s.blkdone + 1#64, mstep := 0#7
      phase := if s.blkdone + 1#64 = s.blkcount then .done else .ready } ∧
    ∀ j : Fin 8, h[j].toNat = (s.hash[j].toNat + s.v[j].toNat) % 2 ^ 32

/-! ## Whole blocks -/

/-- What a block in progress has computed is kept by every step, whatever the next event is (41_schedule.md R161, R162,
R164, 42_compress.md R181, R185; the event list is log 3's). -/
def Obligations.StepKeepsBlockInvariant : Prop :=
  ∀ s t : State, BlockInv s → step s = .next t → BlockInv t

/-- The reset state has no block in progress, and meets it. -/
def Obligations.ResetStateMeetsBlockInvariant : Prop := BlockInv State.reset

/-- The turn that performs FEEDFWD on a block that meets its invariant leaves Compress(H_in, Sched(BLK)) in HASH,
whatever accesses came before it (42_compress.md R183, R188; log 3, and log 4 for the empty list). -/
def Obligations.FinishedBlockIsCompressed : Prop :=
  ∀ s : State, BlockInv s → s.phase = .busy → s.mstep = 113#7 → (s.inputs = [] ∨ ∃ rest, s.inputs = .core :: rest) →
    ∃ t, step s = .next t ∧ t.hash = compress s.hash (schedOf s.blk) ∧ t.blkdone = s.blkdone + 1#64 ∧ t.mstep = 0#7 ∧
      t.phase = (if s.blkdone + 1#64 = s.blkcount then .done else .ready) ∧ t.blk = s.blk

/-- From the start of a block, 49 micro-steps leave in W exactly the schedule of the block in BLK
(41_schedule.md R160, R164) and leave BLK and HASH alone. With no event pending the sequencer takes its steps by
itself (log 4). -/
def Obligations.ScheduleFileHoldsSchedule : Prop :=
  ∀ s : State, s.phase = .busy → s.mstep = 0#7 → s.inputs = [] →
    ∃ t, runSteps 49 s = some t ∧ t.phase = .busy ∧ t.mstep = 49#7 ∧ t.blk = s.blk ∧ t.hash = s.hash ∧ t.v = s.hash ∧
      (∀ n : Fin 16, t.w[n.val] = s.blk[n]) ∧
      (∀ n : Fin 48, t.w[n.val + 16].toNat = ((ssig1 t.w[n.val + 14]).toNat + t.w[n.val + 9].toNat
        + (ssig0 t.w[n.val + 1]).toNat + t.w[n.val].toNat) % 2 ^ 32)

/-- A block takes exactly 114 micro-steps, BUSY until the last one, and leaves HASH = Compress(H_in, Sched(BLK)),
BLKDONE one higher and READY or DONE (42_compress.md R185, R188, R190). With no event pending the sequencer takes its
steps by itself (log 4). -/
def Obligations.BlockCompressesIn114Steps : Prop :=
  ∀ s : State, s.phase = .busy → s.mstep = 0#7 → s.inputs = [] →
    (∀ n < 114, ∃ t, runSteps n s = some t ∧ t.phase = .busy ∧ t.mstep.toNat = n ∧ t.hash = s.hash) ∧
    ∃ t, runSteps 114 s = some t ∧ t.hash = compress s.hash (schedOf s.blk) ∧ t.blkdone = s.blkdone + 1#64 ∧
      t.mstep = 0#7 ∧ t.phase = (if s.blkdone + 1#64 = s.blkcount then .done else .ready) ∧
      t.blk = s.blk ∧ t.msglen = s.msglen ∧ t.blkcount = s.blkcount ∧ t.err = s.err

/-- 42_compress.md R189, in four clauses. A step on any next event (log 3) from two states that differ at most in
TRACE_ON, the trace storage and the last word read gives two such states; so does any number of steps on any events.
START.T and START give the same state but for TRACE_ON, where the capacity check does not fail START.T alone. And with
no event pending the machine with its trace taken away reaches the same state with its trace taken away. -/
def Obligations.TraceNeverAltersTheResult : Prop :=
  (∀ s s' t : State, sameButTrace s s' → step s = .next t → ∃ t', step s' = .next t' ∧ sameButTrace t t') ∧
  (∀ (n : Nat) (s s' t : State), sameButTrace s s' → runSteps n s = some t →
    ∃ t', runSteps n s' = some t' ∧ sameButTrace t t') ∧
  (∀ s : State, s.phase = .busy ∨ 2 ^ 61 ≤ s.msglen.toNat ∨ (padInfo s.msglen).blockCount.toNat ≤ s.cfg.traceCap →
    ∃ t t', exec .startT s = .next t ∧ exec .start s = .next t' ∧ t.untraced = t'.untraced) ∧
  (∀ (n : Nat) (s t : State), s.inputs = [] → runSteps n s = some t → runSteps n s.untraced = some t.untraced)

/-- 20_memory.md R83: whatever accesses the host interleaves with a block in progress, spelled by word address or by
byte address, SRESET apart, after the same number of micro-steps the state is the same but for ERR, TRIDX and the
model's own fields. The last micro-step may be the block's FEEDFWD. The event list is log 3's, the two spellings are
log 12's, and the comparison run has no event pending (log 4). -/
def Obligations.InterleavingDoesNotMatter : Prop :=
  ∀ (s : State) (es : List Input), s.phase = .busy → s.mstep.toNat + es.count .core ≤ 113 →
    (∀ e ∈ es, e = .core ∨ (∃ code w, e = .port code w ∧ decodeBus code w ≠ .wrCmd 0x0000000F#32) ∨
      ∃ we addr w waddr, e = .bus we addr w ∧ windowAddr s.cfg addr = some waddr ∧
        decodeBus (busCode we waddr) w ≠ .wrCmd 0x0000000F#32) →
    ∃ t t', runSteps (es.length + 1) { s with inputs := es ++ [.core] } = some t ∧
      runSteps (es.count .core + 1) { s with inputs := [] } = some t' ∧ sameBlock t' t

/-- 44_trace.md R259: an entry that is valid stays valid with its value, across any step that does not end the run
(the reset input, SRESET, or a START that is not refused by BUSY). -/
def Obligations.ValidEntriesAreImmutable : Prop :=
  ∀ (s t : State) (x : TrIdx), StateInv s → step s = .next t → trValid { s with tridx := x } = true →
    (∀ d, fetch s ≠ .hardReset d) → fetch s ≠ .run .sreset → fetch s ≠ .run (.wrCmd 0x0000000F#32) →
    (s.phase ≠ .busy → fetch s ≠ .run .start ∧ fetch s ≠ .run .startT ∧ fetch s ≠ .run (.wrCmd 0x00000001#32) ∧
      fetch s ≠ .run (.wrCmd 0x00000011#32)) →
    trValid { t with tridx := x } = true ∧ trData { t with tridx := x } = trData { s with tridx := x }

/-- 44_trace.md R261: in DONE after a traced run every entry of every block of the run can be selected and is
valid. -/
def Obligations.DoneTraceIsComplete : Prop :=
  ∀ s : State, StateInv s → s.phase = .done → s.traceOn = true → ∀ b, b < s.blkcount.toNat → ∀ a : TraceAddr,
    ∃ x : TrIdx, x.block.toNat = b ∧ x.addr? = some a ∧ trValid { s with tridx := x } = true

/-- 44_trace.md R257, R258: a valid selection outside section 0 names an entry inside the storage, and TRDATA is that
entry. -/
def Obligations.ValidEntriesLieInside : Prop :=
  ∀ s : State, StateInv s → trValid s = true → s.tridx.sect ≠ 0#2 →
    s.tridx.block.toNat < s.cfg.traceCap ∧ ∃ a, s.tridx.addr? = some a ∧
      exec .rdTrdata s = .next { s with rdata := Trace.read s.trace s.tridx.block.toNat a }

/-! ## The ALU -/

/-- R131: ADD32 is the exact sum modulo 2^32 on the ALU's output lines, and no element of the block changes. -/
def Obligations.AddResult : Prop :=
  ∀ (s : State) (x1 x2 x3 x4 x5 : Word), ∃ r, exec (.add32 x1 x2 x3 x4 x5) s = .next { s with aluOut := r } ∧
    r.toNat = (x1.toNat + x2.toNat + x3.toNat + x4.toNat + x5.toNat) % 2 ^ 32

/-- R132, R133: bit j of ROTR is bit (j + n) mod 32 of x; SHR is floor(x / 2^n). -/
def Obligations.RotateAndShiftResult : Prop :=
  ∀ (s : State) (x : Word) (n : Fin 32),
    (∃ r, exec (.rotr x n) s = .next { s with aluOut := r } ∧
      ∀ j, j < 32 → r.getLsbD j = x.getLsbD ((j + n.val) % 32)) ∧
    (∃ r, exec (.shr x n) s = .next { s with aluOut := r } ∧ r.toNat = x.toNat / 2 ^ n.val)

/-- R134 to R138: the bitwise functions, bit by bit; CH takes y's bit where x has 1 and z's where x has 0, MAJ is the
majority of the three bits. -/
def Obligations.BitwiseResult : Prop :=
  ∀ (s : State) (x y z : Word),
    (∃ r, exec (.xor32 x y z) s = .next { s with aluOut := r } ∧
      ∀ j, j < 32 → r.getLsbD j = ((x.getLsbD j ^^ y.getLsbD j) ^^ z.getLsbD j)) ∧
    (∃ r, exec (.and32 x y) s = .next { s with aluOut := r } ∧ ∀ j, j < 32 → r.getLsbD j = (x.getLsbD j && y.getLsbD j)) ∧
    (∃ r, exec (.not32 x) s = .next { s with aluOut := r } ∧ ∀ j, j < 32 → r.getLsbD j = !x.getLsbD j) ∧
    (∃ r, exec (.ch x y z) s = .next { s with aluOut := r } ∧
      ∀ j, j < 32 → r.getLsbD j = if x.getLsbD j then y.getLsbD j else z.getLsbD j) ∧
    (∃ r, exec (.maj x y z) s = .next { s with aluOut := r } ∧
      ∀ j, j < 32 → r.getLsbD j = decide (2 ≤ (x.getLsbD j).toNat + (y.getLsbD j).toNat + (z.getLsbD j).toNat))

/-- R139 to R142: the four sigma functions, bit by bit. -/
def Obligations.SigmaResult : Prop :=
  ∀ (s : State) (x : Word),
    let rot := fun (j n : Nat) => x.getLsbD ((j + n) % 32)
    (∃ r, exec (.bsig0 x) s = .next { s with aluOut := r } ∧
      ∀ j, j < 32 → r.getLsbD j = ((rot j 2 ^^ rot j 13) ^^ rot j 22)) ∧
    (∃ r, exec (.bsig1 x) s = .next { s with aluOut := r } ∧
      ∀ j, j < 32 → r.getLsbD j = ((rot j 6 ^^ rot j 11) ^^ rot j 25)) ∧
    (∃ r, exec (.ssig0 x) s = .next { s with aluOut := r } ∧
      ∀ j, j < 32 → r.getLsbD j = ((rot j 7 ^^ rot j 18) ^^ (decide (j + 3 < 32) && x.getLsbD (j + 3)))) ∧
    (∃ r, exec (.ssig1 x) s = .next { s with aluOut := r } ∧
      ∀ j, j < 32 → r.getLsbD j = ((rot j 17 ^^ rot j 19) ^^ (decide (j + 10 < 32) && x.getLsbD (j + 10))))

/-- The sigma functions are linear over XOR (the corner cases of R139 to R142), and so is a rotation. -/
def Obligations.SigmasAreLinear : Prop :=
  ∀ (x y : Word) (n : Fin 32), rotr (x ^^^ y) n = rotr x n ^^^ rotr y n ∧
    bsig0 (x ^^^ y) = bsig0 x ^^^ bsig0 y ∧ bsig1 (x ^^^ y) = bsig1 x ^^^ bsig1 y ∧
    ssig0 (x ^^^ y) = ssig0 x ^^^ ssig0 y ∧ ssig1 (x ^^^ y) = ssig1 x ^^^ ssig1 y

/-- R27, R180: K and H0 are the first 32 bits of the fractional parts of the cube roots of the first 64 primes and of
the square roots of the first 8. `r` is a root's integer part. -/
def Obligations.ConstantsAreRootsOfPrimes : Prop :=
  let primes := (List.range 312).filter fun n => decide (2 ≤ n) && (List.range n).all fun m => decide (m < 2) || n % m != 0
  primes.length = 64 ∧
  (∀ i : Fin 64, ∃ p r, primes[i.val]? = some p ∧
    (r * 2 ^ 32 + (k i).toNat) ^ 3 ≤ p * 2 ^ 96 ∧ p * 2 ^ 96 < (r * 2 ^ 32 + (k i).toNat + 1) ^ 3) ∧
  (∀ i : Fin 8, ∃ p r, primes[i.val]? = some p ∧
    (r * 2 ^ 32 + h0[i].toNat) ^ 2 ≤ p * 2 ^ 64 ∧ p * 2 ^ 64 < (r * 2 ^ 32 + h0[i].toNat + 1) ^ 2)

/-! ## The functions of whole blocks and messages -/

/-- R160: the schedule function. -/
def Obligations.ScheduleRecurrence : Prop :=
  ∀ blk : Vector Word 16, (schedOf blk).length = 64 ∧
    (∀ t : Fin 16, (schedOf blk)[t.val]? = some blk[t]) ∧
    (∀ t, 16 ≤ t → t < 64 → ∃ x a b c d, (schedOf blk)[t]? = some x ∧ (schedOf blk)[t - 2]? = some a ∧
      (schedOf blk)[t - 7]? = some b ∧ (schedOf blk)[t - 15]? = some c ∧ (schedOf blk)[t - 16]? = some d ∧
      x.toNat = ((ssig1 a).toNat + b.toNat + (ssig0 c).toNat + d.toNat) % 2 ^ 32)

/-- Pad(M) is M, the byte 0x80, zero bytes, and 8L as a 64-bit big-endian number; a message of 2^61 bytes or more has
none (45_host_reference.md R281). The clause that fixes the number of zero bytes, the length 64 * block_count in
closed form, is R282's, which the spec marks "[derived: from rule R281 and `43_commands.md` rule R222]". -/
def Obligations.PaddedMessage : Prop :=
  ∀ msg : List Byte,
    (2 ^ 61 ≤ msg.length → pad msg = none) ∧
    (msg.length < 2 ^ 61 → ∃ p z, pad msg = some p ∧ p.length = 64 * ((msg.length + 8) / 64 + 1) ∧
      p = msg ++ [0x80#8] ++ List.replicate z 0x00#8 ++ p.drop (p.length - 8) ∧
      ∀ j, j < 8 → ∃ b, p[p.length - 8 + j]? = some b ∧ b.toNat = 8 * msg.length / 2 ^ (8 * (7 - j)) % 256)

/-- R72, R284, R286: Pack reads four bytes as a big-endian word, Serialise writes a word as four bytes, the most
significant first. -/
def Obligations.PackAndSerialise : Prop :=
  (∀ (bytes : List Byte) (t : Fin 16), bytes.length = 64 → ∃ b0 b1 b2 b3, bytes[4 * t.val]? = some b0 ∧
    bytes[4 * t.val + 1]? = some b1 ∧ bytes[4 * t.val + 2]? = some b2 ∧ bytes[4 * t.val + 3]? = some b3 ∧
    (pack bytes)[t].toNat = b0.toNat * 2 ^ 24 + b1.toNat * 2 ^ 16 + b2.toNat * 2 ^ 8 + b3.toNat) ∧
  (∀ hash : Vector Word 8, (serialise hash).length = 32 ∧ ∀ (n : Fin 8) (j : Fin 4), ∃ b,
    (serialise hash)[4 * n.val + j.val]? = some b ∧ b.toNat = hash[n].toNat / 2 ^ (8 * (3 - j.val)) % 256)
end

