-- ==== Sys2Proof/Laws/Alu.lean ====
section
/-! SUPPORT. The ALU functions in terms of Lean's own bit vector operations (40_alu.md). -/

namespace Sys2Proof.Machine

open Sys2Proof

/-- ADD32 is the exact sum modulo 2^32 (R131). -/
theorem add32_toNat (xs : List Word) : (add32 xs).toNat = (xs.map BitVec.toNat).sum % 2 ^ 32 := by
  simp [add32, toU32]

@[simp] theorem add32_two (x y : Word) : add32 [x, y] = x + y := by
  apply BitVec.eq_of_toNat_eq; simp [add32_toNat]

@[simp] theorem add32_four (x1 x2 x3 x4 : Word) : add32 [x1, x2, x3, x4] = x1 + x2 + x3 + x4 := by
  apply BitVec.eq_of_toNat_eq; simp [add32_toNat, Nat.add_assoc]

@[simp] theorem add32_five (x1 x2 x3 x4 x5 : Word) : add32 [x1, x2, x3, x4, x5] = x1 + x2 + x3 + x4 + x5 := by
  apply BitVec.eq_of_toNat_eq; simp [add32_toNat, Nat.add_assoc]

@[simp] theorem xor32_two (x y : Word) : xor32 [x, y] = x ^^^ y := by simp [xor32]

@[simp] theorem xor32_three (x y z : Word) : xor32 [x, y, z] = x ^^^ y ^^^ z := by simp [xor32]

@[simp] theorem not32_eq (x : Word) : not32 x = ~~~x := by
  have h : (0xFFFFFFFF#32 : Word) = BitVec.allOnes 32 := by decide
  rw [not32, h, BitVec.allOnes_xor]

end Sys2Proof.Machine
end

