-- ==== Sys2Proof/Laws/PerInstr.lean ====
section
/-! SUPPORT. Lemmas per instruction: TableRow says that an instruction's coded word lies in the row of
opcode_table.json that carries its mnemonic (ILLEGAL_CMD has no mask: its word is none of the five legal ones). -/

namespace Sys2Proof.Laws.TableRow

open Sys2Proof

/-- The coded word of an instruction lies in the row of its mnemonic. -/
def Statement (i : Instr) : Prop :=
  match i with
  | .illegalCmd word => i.wellFormed = true → encode i = .cmd word ∧ word ∉ legalCommandWords
  | _ => ∃ r ∈ tableRows, r.mnemonic = i.mnemonic ∧ r.format = (encode i).format ∧ (encode i).bits &&& r.mask = r.pattern

theorem rdId : Statement .rdId :=
  have h : (busCode false 0x00#6).toNat &&& 0x7F = 0x00 := by decide
  ⟨_, List.mem_of_getElem? (i := 0) rfl, rfl, rfl, h⟩
theorem wrId (wdata : Word) : Statement (.wrId wdata) :=
  have h : (busCode true 0x00#6).toNat &&& 0x7F = 0x40 := by decide
  ⟨_, List.mem_of_getElem? (i := 1) rfl, rfl, rfl, h⟩
theorem rdCmd : Statement .rdCmd :=
  have h : (busCode false 0x01#6).toNat &&& 0x7F = 0x01 := by decide
  ⟨_, List.mem_of_getElem? (i := 2) rfl, rfl, rfl, h⟩
theorem wrCmd (wdata : Word) : Statement (.wrCmd wdata) :=
  have h : (busCode true 0x01#6).toNat &&& 0x7F = 0x41 := by decide
  ⟨_, List.mem_of_getElem? (i := 3) rfl, rfl, rfl, h⟩
theorem rdStatus : Statement .rdStatus :=
  have h : (busCode false 0x02#6).toNat &&& 0x7F = 0x02 := by decide
  ⟨_, List.mem_of_getElem? (i := 4) rfl, rfl, rfl, h⟩
theorem wrStatus (wdata : Word) : Statement (.wrStatus wdata) :=
  have h : (busCode true 0x02#6).toNat &&& 0x7F = 0x42 := by decide
  ⟨_, List.mem_of_getElem? (i := 5) rfl, rfl, rfl, h⟩
theorem rdProgress : Statement .rdProgress :=
  have h : (busCode false 0x03#6).toNat &&& 0x7F = 0x03 := by decide
  ⟨_, List.mem_of_getElem? (i := 6) rfl, rfl, rfl, h⟩
theorem wrProgress (wdata : Word) : Statement (.wrProgress wdata) :=
  have h : (busCode true 0x03#6).toNat &&& 0x7F = 0x43 := by decide
  ⟨_, List.mem_of_getElem? (i := 7) rfl, rfl, rfl, h⟩
theorem rdMsglen (hi : Bool) : Statement (.rdMsglen hi) :=
  have h : ∀ (hi : Bool), (busCode false (halfAddr 0x04#6 hi)).toNat &&& 0x7E = 0x04 := by decide
  ⟨_, List.mem_of_getElem? (i := 8) rfl, rfl, rfl, h hi⟩
theorem wrMsglen (hi : Bool) (wdata : Word) : Statement (.wrMsglen hi wdata) :=
  have h : ∀ (hi : Bool), (busCode true (halfAddr 0x04#6 hi)).toNat &&& 0x7E = 0x44 := by decide
  ⟨_, List.mem_of_getElem? (i := 9) rfl, rfl, rfl, h hi⟩
theorem rdBlkcount (hi : Bool) : Statement (.rdBlkcount hi) :=
  have h : ∀ (hi : Bool), (busCode false (halfAddr 0x06#6 hi)).toNat &&& 0x7E = 0x06 := by decide
  ⟨_, List.mem_of_getElem? (i := 10) rfl, rfl, rfl, h hi⟩
theorem wrBlkcount (hi : Bool) (wdata : Word) : Statement (.wrBlkcount hi wdata) :=
  have h : ∀ (hi : Bool), (busCode true (halfAddr 0x06#6 hi)).toNat &&& 0x7E = 0x46 := by decide
  ⟨_, List.mem_of_getElem? (i := 11) rfl, rfl, rfl, h hi⟩
theorem rdBlkdone (hi : Bool) : Statement (.rdBlkdone hi) :=
  have h : ∀ (hi : Bool), (busCode false (halfAddr 0x08#6 hi)).toNat &&& 0x7E = 0x08 := by decide
  ⟨_, List.mem_of_getElem? (i := 12) rfl, rfl, rfl, h hi⟩
theorem wrBlkdone (hi : Bool) (wdata : Word) : Statement (.wrBlkdone hi wdata) :=
  have h : ∀ (hi : Bool), (busCode true (halfAddr 0x08#6 hi)).toNat &&& 0x7E = 0x48 := by decide
  ⟨_, List.mem_of_getElem? (i := 13) rfl, rfl, rfl, h hi⟩
theorem rdCap : Statement .rdCap :=
  have h : (busCode false 0x0A#6).toNat &&& 0x7F = 0x0A := by decide
  ⟨_, List.mem_of_getElem? (i := 14) rfl, rfl, rfl, h⟩
theorem wrCap (wdata : Word) : Statement (.wrCap wdata) :=
  have h : (busCode true 0x0A#6).toNat &&& 0x7F = 0x4A := by decide
  ⟨_, List.mem_of_getElem? (i := 15) rfl, rfl, rfl, h⟩
theorem rsv0B (we : Bool) (wdata : Word) : Statement (.rsv0B we wdata) :=
  have h : ∀ (we : Bool), (busCode we 0x0B#6).toNat &&& 0x3F = 0x0B := by decide
  ⟨_, List.mem_of_getElem? (i := 16) rfl, rfl, rfl, h we⟩
theorem rsv0C0F (we : Bool) (low : Fin 4) (wdata : Word) : Statement (.rsv0C0F we low wdata) :=
  have h : ∀ (we : Bool) (low : Fin 4), (busCode we (0x0C#6 + BitVec.ofNat 6 low.val)).toNat &&& 0x3C = 0x0C := by decide
  ⟨_, List.mem_of_getElem? (i := 17) rfl, rfl, rfl, h we low⟩
theorem rdBlk (t : Fin 16) : Statement (.rdBlk t) :=
  have h : ∀ (t : Fin 16), (busCode false (0x10#6 + BitVec.ofNat 6 t.val)).toNat &&& 0x70 = 0x10 := by decide
  ⟨_, List.mem_of_getElem? (i := 18) rfl, rfl, rfl, h t⟩
theorem wrBlk (t : Fin 16) (wdata : Word) : Statement (.wrBlk t wdata) :=
  have h : ∀ (t : Fin 16), (busCode true (0x10#6 + BitVec.ofNat 6 t.val)).toNat &&& 0x70 = 0x50 := by decide
  ⟨_, List.mem_of_getElem? (i := 19) rfl, rfl, rfl, h t⟩
theorem rdHash (k : Fin 8) : Statement (.rdHash k) :=
  have h : ∀ (k : Fin 8), (busCode false (0x20#6 + BitVec.ofNat 6 k.val)).toNat &&& 0x78 = 0x20 := by decide
  ⟨_, List.mem_of_getElem? (i := 20) rfl, rfl, rfl, h k⟩
theorem wrHash (k : Fin 8) (wdata : Word) : Statement (.wrHash k wdata) :=
  have h : ∀ (k : Fin 8), (busCode true (0x20#6 + BitVec.ofNat 6 k.val)).toNat &&& 0x78 = 0x60 := by decide
  ⟨_, List.mem_of_getElem? (i := 21) rfl, rfl, rfl, h k⟩
theorem rsv282F (we : Bool) (low : Fin 8) (wdata : Word) : Statement (.rsv282F we low wdata) :=
  have h : ∀ (we : Bool) (low : Fin 8), (busCode we (0x28#6 + BitVec.ofNat 6 low.val)).toNat &&& 0x38 = 0x28 := by decide
  ⟨_, List.mem_of_getElem? (i := 22) rfl, rfl, rfl, h we low⟩
theorem rdTridx : Statement .rdTridx :=
  have h : (busCode false 0x30#6).toNat &&& 0x7F = 0x30 := by decide
  ⟨_, List.mem_of_getElem? (i := 23) rfl, rfl, rfl, h⟩
theorem wrTridx (wdata : Word) : Statement (.wrTridx wdata) :=
  have h : (busCode true 0x30#6).toNat &&& 0x7F = 0x70 := by decide
  ⟨_, List.mem_of_getElem? (i := 24) rfl, rfl, rfl, h⟩
theorem rdTrdata : Statement .rdTrdata :=
  have h : (busCode false 0x31#6).toNat &&& 0x7F = 0x31 := by decide
  ⟨_, List.mem_of_getElem? (i := 25) rfl, rfl, rfl, h⟩
theorem wrTrdata (wdata : Word) : Statement (.wrTrdata wdata) :=
  have h : (busCode true 0x31#6).toNat &&& 0x7F = 0x71 := by decide
  ⟨_, List.mem_of_getElem? (i := 26) rfl, rfl, rfl, h⟩
theorem rsv3233 (we : Bool) (low : Fin 2) (wdata : Word) : Statement (.rsv3233 we low wdata) :=
  have h : ∀ (we : Bool) (low : Fin 2), (busCode we (0x32#6 + BitVec.ofNat 6 low.val)).toNat &&& 0x3E = 0x32 := by decide
  ⟨_, List.mem_of_getElem? (i := 27) rfl, rfl, rfl, h we low⟩
theorem rsv3437 (we : Bool) (low : Fin 4) (wdata : Word) : Statement (.rsv3437 we low wdata) :=
  have h : ∀ (we : Bool) (low : Fin 4), (busCode we (0x34#6 + BitVec.ofNat 6 low.val)).toNat &&& 0x3C = 0x34 := by decide
  ⟨_, List.mem_of_getElem? (i := 28) rfl, rfl, rfl, h we low⟩
theorem rsv383F (we : Bool) (low : Fin 8) (wdata : Word) : Statement (.rsv383F we low wdata) :=
  have h : ∀ (we : Bool) (low : Fin 8), (busCode we (0x38#6 + BitVec.ofNat 6 low.val)).toNat &&& 0x38 = 0x38 := by decide
  ⟨_, List.mem_of_getElem? (i := 29) rfl, rfl, rfl, h we low⟩
theorem nop : Statement .nop :=
  have h : (0x00000000#32).toNat &&& 0xFFFFFFFF = 0x00000000 := by decide
  ⟨_, List.mem_of_getElem? (i := 30) rfl, rfl, rfl, h⟩
theorem start : Statement .start :=
  have h : (0x00000001#32).toNat &&& 0xFFFFFFFF = 0x00000001 := by decide
  ⟨_, List.mem_of_getElem? (i := 31) rfl, rfl, rfl, h⟩
theorem startT : Statement .startT :=
  have h : (0x00000011#32).toNat &&& 0xFFFFFFFF = 0x00000011 := by decide
  ⟨_, List.mem_of_getElem? (i := 32) rfl, rfl, rfl, h⟩
theorem block : Statement .block :=
  have h : (0x00000002#32).toNat &&& 0xFFFFFFFF = 0x00000002 := by decide
  ⟨_, List.mem_of_getElem? (i := 33) rfl, rfl, rfl, h⟩
theorem sreset : Statement .sreset :=
  have h : (0x0000000F#32).toNat &&& 0xFFFFFFFF = 0x0000000F := by decide
  ⟨_, List.mem_of_getElem? (i := 34) rfl, rfl, rfl, h⟩
theorem illegalCmd (word : Word) : Statement (.illegalCmd word) := fun h => ⟨rfl, by simpa [Instr.wellFormed] using h⟩

theorem load : Statement .load :=
  have h : (0b00#2 ++ 0#6).toNat &&& 0xFF = 0x00 := by decide
  ⟨_, List.mem_of_getElem? (i := 35) rfl, rfl, rfl, h⟩
theorem expand (idx : Fin 48) : Statement (.expand idx) :=
  have h : ∀ (idx : Fin 48), (0b01#2 ++ BitVec.ofNat 6 idx.val).toNat &&& 0xC0 = 0x40 := by decide
  ⟨_, List.mem_of_getElem? (i := 36) rfl, rfl, rfl, h idx⟩
theorem round (i : Fin 64) : Statement (.round i) :=
  have h : ∀ (i : Fin 64), (0b10#2 ++ BitVec.ofNat 6 i.val).toNat &&& 0xC0 = 0x80 := by decide
  ⟨_, List.mem_of_getElem? (i := 37) rfl, rfl, rfl, h i⟩
theorem feedfwd : Statement .feedfwd :=
  have h : (0b11#2 ++ 0#6).toNat &&& 0xFF = 0xC0 := by decide
  ⟨_, List.mem_of_getElem? (i := 38) rfl, rfl, rfl, h⟩
theorem add32 (x1 : Word) (x2 : Word) (x3 : Word) (x4 : Word) (x5 : Word) : Statement (.add32 x1 x2 x3 x4 x5) :=
  have h : (0x0#4).toNat &&& 0xF = 0x0 := by decide
  ⟨_, List.mem_of_getElem? (i := 39) rfl, rfl, rfl, h⟩
theorem rotr (x : Word) (n : Fin 32) : Statement (.rotr x n) :=
  have h : (0x1#4).toNat &&& 0xF = 0x1 := by decide
  ⟨_, List.mem_of_getElem? (i := 40) rfl, rfl, rfl, h⟩
theorem shr (x : Word) (n : Fin 32) : Statement (.shr x n) :=
  have h : (0x2#4).toNat &&& 0xF = 0x2 := by decide
  ⟨_, List.mem_of_getElem? (i := 41) rfl, rfl, rfl, h⟩
theorem xor32 (x1 : Word) (x2 : Word) (x3 : Word) : Statement (.xor32 x1 x2 x3) :=
  have h : (0x3#4).toNat &&& 0xF = 0x3 := by decide
  ⟨_, List.mem_of_getElem? (i := 42) rfl, rfl, rfl, h⟩
theorem and32 (x : Word) (y : Word) : Statement (.and32 x y) :=
  have h : (0x4#4).toNat &&& 0xF = 0x4 := by decide
  ⟨_, List.mem_of_getElem? (i := 43) rfl, rfl, rfl, h⟩
theorem not32 (x : Word) : Statement (.not32 x) :=
  have h : (0x5#4).toNat &&& 0xF = 0x5 := by decide
  ⟨_, List.mem_of_getElem? (i := 44) rfl, rfl, rfl, h⟩
theorem ch (x : Word) (y : Word) (z : Word) : Statement (.ch x y z) :=
  have h : (0x6#4).toNat &&& 0xF = 0x6 := by decide
  ⟨_, List.mem_of_getElem? (i := 45) rfl, rfl, rfl, h⟩
theorem maj (x : Word) (y : Word) (z : Word) : Statement (.maj x y z) :=
  have h : (0x7#4).toNat &&& 0xF = 0x7 := by decide
  ⟨_, List.mem_of_getElem? (i := 46) rfl, rfl, rfl, h⟩
theorem bsig0 (x : Word) : Statement (.bsig0 x) :=
  have h : (0x8#4).toNat &&& 0xF = 0x8 := by decide
  ⟨_, List.mem_of_getElem? (i := 47) rfl, rfl, rfl, h⟩
theorem bsig1 (x : Word) : Statement (.bsig1 x) :=
  have h : (0x9#4).toNat &&& 0xF = 0x9 := by decide
  ⟨_, List.mem_of_getElem? (i := 48) rfl, rfl, rfl, h⟩
theorem ssig0 (x : Word) : Statement (.ssig0 x) :=
  have h : (0xA#4).toNat &&& 0xF = 0xA := by decide
  ⟨_, List.mem_of_getElem? (i := 49) rfl, rfl, rfl, h⟩
theorem ssig1 (x : Word) : Statement (.ssig1 x) :=
  have h : (0xB#4).toNat &&& 0xF = 0xB := by decide
  ⟨_, List.mem_of_getElem? (i := 50) rfl, rfl, rfl, h⟩

end Sys2Proof.Laws.TableRow
end

