-- ==== Sys2Proof/Laws/State.lean ====
section
/-! SUPPORT. The fields of a state after each shared operation, so that no later proof unfolds a record update. -/

namespace Sys2Proof.Machine

open Sys2Proof

/-! ### answer -/

@[simp] theorem answer_cfg (x : Word) (s : State) : (answer x s).cfg = s.cfg := rfl
@[simp] theorem answer_v (x : Word) (s : State) : (answer x s).v = s.v := rfl
@[simp] theorem answer_t1 (x : Word) (s : State) : (answer x s).t1 = s.t1 := rfl
@[simp] theorem answer_t2 (x : Word) (s : State) : (answer x s).t2 = s.t2 := rfl
@[simp] theorem answer_w (x : Word) (s : State) : (answer x s).w = s.w := rfl
@[simp] theorem answer_blk (x : Word) (s : State) : (answer x s).blk = s.blk := rfl
@[simp] theorem answer_hash (x : Word) (s : State) : (answer x s).hash = s.hash := rfl
@[simp] theorem answer_phase (x : Word) (s : State) : (answer x s).phase = s.phase := rfl
@[simp] theorem answer_mstep (x : Word) (s : State) : (answer x s).mstep = s.mstep := rfl
@[simp] theorem answer_traceOn (x : Word) (s : State) : (answer x s).traceOn = s.traceOn := rfl
@[simp] theorem answer_err (x : Word) (s : State) : (answer x s).err = s.err := rfl
@[simp] theorem answer_msglen (x : Word) (s : State) : (answer x s).msglen = s.msglen := rfl
@[simp] theorem answer_padinfo (x : Word) (s : State) : (answer x s).padinfo = s.padinfo := rfl
@[simp] theorem answer_blkcount (x : Word) (s : State) : (answer x s).blkcount = s.blkcount := rfl
@[simp] theorem answer_blkdone (x : Word) (s : State) : (answer x s).blkdone = s.blkdone := rfl
@[simp] theorem answer_tridx (x : Word) (s : State) : (answer x s).tridx = s.tridx := rfl
@[simp] theorem answer_trace (x : Word) (s : State) : (answer x s).trace = s.trace := rfl
@[simp] theorem answer_inputs (x : Word) (s : State) : (answer x s).inputs = s.inputs := rfl
@[simp] theorem answer_rdata (x : Word) (s : State) : (answer x s).rdata = x := rfl
@[simp] theorem answer_aluOut (x : Word) (s : State) : (answer x s).aluOut = s.aluOut := rfl

/-! ### drive -/

@[simp] theorem drive_cfg (x : Word) (s : State) : (drive x s).cfg = s.cfg := rfl
@[simp] theorem drive_v (x : Word) (s : State) : (drive x s).v = s.v := rfl
@[simp] theorem drive_t1 (x : Word) (s : State) : (drive x s).t1 = s.t1 := rfl
@[simp] theorem drive_t2 (x : Word) (s : State) : (drive x s).t2 = s.t2 := rfl
@[simp] theorem drive_w (x : Word) (s : State) : (drive x s).w = s.w := rfl
@[simp] theorem drive_blk (x : Word) (s : State) : (drive x s).blk = s.blk := rfl
@[simp] theorem drive_hash (x : Word) (s : State) : (drive x s).hash = s.hash := rfl
@[simp] theorem drive_phase (x : Word) (s : State) : (drive x s).phase = s.phase := rfl
@[simp] theorem drive_mstep (x : Word) (s : State) : (drive x s).mstep = s.mstep := rfl
@[simp] theorem drive_traceOn (x : Word) (s : State) : (drive x s).traceOn = s.traceOn := rfl
@[simp] theorem drive_err (x : Word) (s : State) : (drive x s).err = s.err := rfl
@[simp] theorem drive_msglen (x : Word) (s : State) : (drive x s).msglen = s.msglen := rfl
@[simp] theorem drive_padinfo (x : Word) (s : State) : (drive x s).padinfo = s.padinfo := rfl
@[simp] theorem drive_blkcount (x : Word) (s : State) : (drive x s).blkcount = s.blkcount := rfl
@[simp] theorem drive_blkdone (x : Word) (s : State) : (drive x s).blkdone = s.blkdone := rfl
@[simp] theorem drive_tridx (x : Word) (s : State) : (drive x s).tridx = s.tridx := rfl
@[simp] theorem drive_trace (x : Word) (s : State) : (drive x s).trace = s.trace := rfl
@[simp] theorem drive_inputs (x : Word) (s : State) : (drive x s).inputs = s.inputs := rfl
@[simp] theorem drive_rdata (x : Word) (s : State) : (drive x s).rdata = s.rdata := rfl
@[simp] theorem drive_aluOut (x : Word) (s : State) : (drive x s).aluOut = x := rfl

/-! ### raiseErr -/

@[simp] theorem raiseErr_cfg (c : ErrCode) (s : State) : (raiseErr c s).cfg = s.cfg := rfl
@[simp] theorem raiseErr_v (c : ErrCode) (s : State) : (raiseErr c s).v = s.v := rfl
@[simp] theorem raiseErr_t1 (c : ErrCode) (s : State) : (raiseErr c s).t1 = s.t1 := rfl
@[simp] theorem raiseErr_t2 (c : ErrCode) (s : State) : (raiseErr c s).t2 = s.t2 := rfl
@[simp] theorem raiseErr_w (c : ErrCode) (s : State) : (raiseErr c s).w = s.w := rfl
@[simp] theorem raiseErr_blk (c : ErrCode) (s : State) : (raiseErr c s).blk = s.blk := rfl
@[simp] theorem raiseErr_hash (c : ErrCode) (s : State) : (raiseErr c s).hash = s.hash := rfl
@[simp] theorem raiseErr_phase (c : ErrCode) (s : State) : (raiseErr c s).phase = s.phase := rfl
@[simp] theorem raiseErr_mstep (c : ErrCode) (s : State) : (raiseErr c s).mstep = s.mstep := rfl
@[simp] theorem raiseErr_traceOn (c : ErrCode) (s : State) : (raiseErr c s).traceOn = s.traceOn := rfl
@[simp] theorem raiseErr_err (c : ErrCode) (s : State) : (raiseErr c s).err = c := rfl
@[simp] theorem raiseErr_msglen (c : ErrCode) (s : State) : (raiseErr c s).msglen = s.msglen := rfl
@[simp] theorem raiseErr_padinfo (c : ErrCode) (s : State) : (raiseErr c s).padinfo = s.padinfo := rfl
@[simp] theorem raiseErr_blkcount (c : ErrCode) (s : State) : (raiseErr c s).blkcount = s.blkcount := rfl
@[simp] theorem raiseErr_blkdone (c : ErrCode) (s : State) : (raiseErr c s).blkdone = s.blkdone := rfl
@[simp] theorem raiseErr_tridx (c : ErrCode) (s : State) : (raiseErr c s).tridx = s.tridx := rfl
@[simp] theorem raiseErr_trace (c : ErrCode) (s : State) : (raiseErr c s).trace = s.trace := rfl
@[simp] theorem raiseErr_inputs (c : ErrCode) (s : State) : (raiseErr c s).inputs = s.inputs := rfl
@[simp] theorem raiseErr_rdata (c : ErrCode) (s : State) : (raiseErr c s).rdata = s.rdata := rfl
@[simp] theorem raiseErr_aluOut (c : ErrCode) (s : State) : (raiseErr c s).aluOut = s.aluOut := rfl

/-! ### consume -/

@[simp] theorem consume_cfg (s : State) : (consume s).cfg = s.cfg := rfl
@[simp] theorem consume_v (s : State) : (consume s).v = s.v := rfl
@[simp] theorem consume_t1 (s : State) : (consume s).t1 = s.t1 := rfl
@[simp] theorem consume_t2 (s : State) : (consume s).t2 = s.t2 := rfl
@[simp] theorem consume_w (s : State) : (consume s).w = s.w := rfl
@[simp] theorem consume_blk (s : State) : (consume s).blk = s.blk := rfl
@[simp] theorem consume_hash (s : State) : (consume s).hash = s.hash := rfl
@[simp] theorem consume_phase (s : State) : (consume s).phase = s.phase := rfl
@[simp] theorem consume_mstep (s : State) : (consume s).mstep = s.mstep := rfl
@[simp] theorem consume_traceOn (s : State) : (consume s).traceOn = s.traceOn := rfl
@[simp] theorem consume_err (s : State) : (consume s).err = s.err := rfl
@[simp] theorem consume_msglen (s : State) : (consume s).msglen = s.msglen := rfl
@[simp] theorem consume_padinfo (s : State) : (consume s).padinfo = s.padinfo := rfl
@[simp] theorem consume_blkcount (s : State) : (consume s).blkcount = s.blkcount := rfl
@[simp] theorem consume_blkdone (s : State) : (consume s).blkdone = s.blkdone := rfl
@[simp] theorem consume_tridx (s : State) : (consume s).tridx = s.tridx := rfl
@[simp] theorem consume_trace (s : State) : (consume s).trace = s.trace := rfl
@[simp] theorem consume_inputs (s : State) : (consume s).inputs = s.inputs.tail := rfl
@[simp] theorem consume_rdata (s : State) : (consume s).rdata = s.rdata := rfl
@[simp] theorem consume_aluOut (s : State) : (consume s).aluOut = s.aluOut := rfl

/-! ### startFail -/

@[simp] theorem startFail_cfg (c : ErrCode) (s : State) : (startFail c s).cfg = s.cfg := rfl
@[simp] theorem startFail_v (c : ErrCode) (s : State) : (startFail c s).v = s.v := rfl
@[simp] theorem startFail_t1 (c : ErrCode) (s : State) : (startFail c s).t1 = s.t1 := rfl
@[simp] theorem startFail_t2 (c : ErrCode) (s : State) : (startFail c s).t2 = s.t2 := rfl
@[simp] theorem startFail_w (c : ErrCode) (s : State) : (startFail c s).w = s.w := rfl
@[simp] theorem startFail_blk (c : ErrCode) (s : State) : (startFail c s).blk = s.blk := rfl
@[simp] theorem startFail_hash (c : ErrCode) (s : State) : (startFail c s).hash = s.hash := rfl
@[simp] theorem startFail_phase (c : ErrCode) (s : State) : (startFail c s).phase = .idle := rfl
@[simp] theorem startFail_mstep (c : ErrCode) (s : State) : (startFail c s).mstep = 0#7 := rfl
@[simp] theorem startFail_traceOn (c : ErrCode) (s : State) : (startFail c s).traceOn = false := rfl
@[simp] theorem startFail_err (c : ErrCode) (s : State) : (startFail c s).err = c := rfl
@[simp] theorem startFail_msglen (c : ErrCode) (s : State) : (startFail c s).msglen = s.msglen := rfl
@[simp] theorem startFail_padinfo (c : ErrCode) (s : State) : (startFail c s).padinfo = s.padinfo := rfl
@[simp] theorem startFail_blkcount (c : ErrCode) (s : State) : (startFail c s).blkcount = 0#64 := rfl
@[simp] theorem startFail_blkdone (c : ErrCode) (s : State) : (startFail c s).blkdone = 0#64 := rfl
@[simp] theorem startFail_tridx (c : ErrCode) (s : State) : (startFail c s).tridx = s.tridx := rfl
@[simp] theorem startFail_trace (c : ErrCode) (s : State) : (startFail c s).trace = s.trace := rfl
@[simp] theorem startFail_inputs (c : ErrCode) (s : State) : (startFail c s).inputs = s.inputs := rfl
@[simp] theorem startFail_rdata (c : ErrCode) (s : State) : (startFail c s).rdata = s.rdata := rfl
@[simp] theorem startFail_aluOut (c : ErrCode) (s : State) : (startFail c s).aluOut = s.aluOut := rfl

/-! ### openRun -/

@[simp] theorem openRun_cfg (tr : Bool) (p : PadInfo) (s : State) : (openRun tr p s).cfg = s.cfg := rfl
@[simp] theorem openRun_v (tr : Bool) (p : PadInfo) (s : State) : (openRun tr p s).v = s.v := rfl
@[simp] theorem openRun_t1 (tr : Bool) (p : PadInfo) (s : State) : (openRun tr p s).t1 = s.t1 := rfl
@[simp] theorem openRun_t2 (tr : Bool) (p : PadInfo) (s : State) : (openRun tr p s).t2 = s.t2 := rfl
@[simp] theorem openRun_w (tr : Bool) (p : PadInfo) (s : State) : (openRun tr p s).w = s.w := rfl
@[simp] theorem openRun_blk (tr : Bool) (p : PadInfo) (s : State) : (openRun tr p s).blk = s.blk := rfl
@[simp] theorem openRun_hash (tr : Bool) (p : PadInfo) (s : State) : (openRun tr p s).hash = h0 := rfl
@[simp] theorem openRun_phase (tr : Bool) (p : PadInfo) (s : State) : (openRun tr p s).phase = .ready := rfl
@[simp] theorem openRun_mstep (tr : Bool) (p : PadInfo) (s : State) : (openRun tr p s).mstep = 0#7 := rfl
@[simp] theorem openRun_traceOn (tr : Bool) (p : PadInfo) (s : State) : (openRun tr p s).traceOn = tr := rfl
@[simp] theorem openRun_err (tr : Bool) (p : PadInfo) (s : State) : (openRun tr p s).err = .none := rfl
@[simp] theorem openRun_msglen (tr : Bool) (p : PadInfo) (s : State) : (openRun tr p s).msglen = s.msglen := rfl
@[simp] theorem openRun_padinfo (tr : Bool) (p : PadInfo) (s : State) : (openRun tr p s).padinfo = p := rfl
@[simp] theorem openRun_blkcount (tr : Bool) (p : PadInfo) (s : State) : (openRun tr p s).blkcount = p.blockCount.setWidth 64 := rfl
@[simp] theorem openRun_blkdone (tr : Bool) (p : PadInfo) (s : State) : (openRun tr p s).blkdone = 0#64 := rfl
@[simp] theorem openRun_tridx (tr : Bool) (p : PadInfo) (s : State) : (openRun tr p s).tridx = s.tridx := rfl
@[simp] theorem openRun_trace (tr : Bool) (p : PadInfo) (s : State) : (openRun tr p s).trace = s.trace := rfl
@[simp] theorem openRun_inputs (tr : Bool) (p : PadInfo) (s : State) : (openRun tr p s).inputs = s.inputs := rfl
@[simp] theorem openRun_rdata (tr : Bool) (p : PadInfo) (s : State) : (openRun tr p s).rdata = s.rdata := rfl
@[simp] theorem openRun_aluOut (tr : Bool) (p : PadInfo) (s : State) : (openRun tr p s).aluOut = s.aluOut := rfl

/-! ### clearControl -/

@[simp] theorem clearControl_cfg (s : State) : (clearControl s).cfg = s.cfg := rfl
@[simp] theorem clearControl_v (s : State) : (clearControl s).v = s.v := rfl
@[simp] theorem clearControl_t1 (s : State) : (clearControl s).t1 = s.t1 := rfl
@[simp] theorem clearControl_t2 (s : State) : (clearControl s).t2 = s.t2 := rfl
@[simp] theorem clearControl_w (s : State) : (clearControl s).w = s.w := rfl
@[simp] theorem clearControl_blk (s : State) : (clearControl s).blk = s.blk := rfl
@[simp] theorem clearControl_hash (s : State) : (clearControl s).hash = s.hash := rfl
@[simp] theorem clearControl_phase (s : State) : (clearControl s).phase = .idle := rfl
@[simp] theorem clearControl_mstep (s : State) : (clearControl s).mstep = 0#7 := rfl
@[simp] theorem clearControl_traceOn (s : State) : (clearControl s).traceOn = false := rfl
@[simp] theorem clearControl_err (s : State) : (clearControl s).err = .none := rfl
@[simp] theorem clearControl_msglen (s : State) : (clearControl s).msglen = 0#64 := rfl
@[simp] theorem clearControl_padinfo (s : State) : (clearControl s).padinfo = s.padinfo := rfl
@[simp] theorem clearControl_blkcount (s : State) : (clearControl s).blkcount = 0#64 := rfl
@[simp] theorem clearControl_blkdone (s : State) : (clearControl s).blkdone = 0#64 := rfl
@[simp] theorem clearControl_tridx (s : State) : (clearControl s).tridx = { block := 0#16, field := 0#4, sect := 0#2, index := 0#6 } := rfl
@[simp] theorem clearControl_trace (s : State) : (clearControl s).trace = s.trace := rfl
@[simp] theorem clearControl_inputs (s : State) : (clearControl s).inputs = s.inputs := rfl
@[simp] theorem clearControl_rdata (s : State) : (clearControl s).rdata = s.rdata := rfl
@[simp] theorem clearControl_aluOut (s : State) : (clearControl s).aluOut = s.aluOut := rfl

/-! ### hardReset -/

@[simp] theorem hardReset_cfg (d : Draw) (s : State) : (hardReset d s).cfg = s.cfg := rfl
@[simp] theorem hardReset_v (d : Draw) (s : State) : (hardReset d s).v = d.v := rfl
@[simp] theorem hardReset_t1 (d : Draw) (s : State) : (hardReset d s).t1 = d.t1 := rfl
@[simp] theorem hardReset_t2 (d : Draw) (s : State) : (hardReset d s).t2 = d.t2 := rfl
@[simp] theorem hardReset_w (d : Draw) (s : State) : (hardReset d s).w = d.w := rfl
@[simp] theorem hardReset_blk (d : Draw) (s : State) : (hardReset d s).blk = d.blk := rfl
@[simp] theorem hardReset_hash (d : Draw) (s : State) : (hardReset d s).hash = d.hash := rfl
@[simp] theorem hardReset_phase (d : Draw) (s : State) : (hardReset d s).phase = .idle := rfl
@[simp] theorem hardReset_mstep (d : Draw) (s : State) : (hardReset d s).mstep = 0#7 := rfl
@[simp] theorem hardReset_traceOn (d : Draw) (s : State) : (hardReset d s).traceOn = false := rfl
@[simp] theorem hardReset_err (d : Draw) (s : State) : (hardReset d s).err = .none := rfl
@[simp] theorem hardReset_msglen (d : Draw) (s : State) : (hardReset d s).msglen = 0#64 := rfl
@[simp] theorem hardReset_padinfo (d : Draw) (s : State) : (hardReset d s).padinfo = d.padinfo := rfl
@[simp] theorem hardReset_blkcount (d : Draw) (s : State) : (hardReset d s).blkcount = 0#64 := rfl
@[simp] theorem hardReset_blkdone (d : Draw) (s : State) : (hardReset d s).blkdone = 0#64 := rfl
@[simp] theorem hardReset_tridx (d : Draw) (s : State) : (hardReset d s).tridx = { block := 0#16, field := 0#4, sect := 0#2, index := 0#6 } := rfl
@[simp] theorem hardReset_trace (d : Draw) (s : State) : (hardReset d s).trace = Trace.ofCells s.cfg.traceCap d.trace := rfl
@[simp] theorem hardReset_inputs (d : Draw) (s : State) : (hardReset d s).inputs = s.inputs := rfl
@[simp] theorem hardReset_rdata (d : Draw) (s : State) : (hardReset d s).rdata = s.rdata := rfl
@[simp] theorem hardReset_aluOut (d : Draw) (s : State) : (hardReset d s).aluOut = s.aluOut := rfl

/-! ### record -/

@[simp] theorem record_cfg (es : List (TraceAddr × Word)) (s : State) : (record es s).cfg = s.cfg := by
  unfold record; split <;> rfl
@[simp] theorem record_v (es : List (TraceAddr × Word)) (s : State) : (record es s).v = s.v := by
  unfold record; split <;> rfl
@[simp] theorem record_t1 (es : List (TraceAddr × Word)) (s : State) : (record es s).t1 = s.t1 := by
  unfold record; split <;> rfl
@[simp] theorem record_t2 (es : List (TraceAddr × Word)) (s : State) : (record es s).t2 = s.t2 := by
  unfold record; split <;> rfl
@[simp] theorem record_w (es : List (TraceAddr × Word)) (s : State) : (record es s).w = s.w := by
  unfold record; split <;> rfl
@[simp] theorem record_blk (es : List (TraceAddr × Word)) (s : State) : (record es s).blk = s.blk := by
  unfold record; split <;> rfl
@[simp] theorem record_hash (es : List (TraceAddr × Word)) (s : State) : (record es s).hash = s.hash := by
  unfold record; split <;> rfl
@[simp] theorem record_phase (es : List (TraceAddr × Word)) (s : State) : (record es s).phase = s.phase := by
  unfold record; split <;> rfl
@[simp] theorem record_mstep (es : List (TraceAddr × Word)) (s : State) : (record es s).mstep = s.mstep := by
  unfold record; split <;> rfl
@[simp] theorem record_traceOn (es : List (TraceAddr × Word)) (s : State) : (record es s).traceOn = s.traceOn := by
  unfold record; split <;> rfl
@[simp] theorem record_err (es : List (TraceAddr × Word)) (s : State) : (record es s).err = s.err := by
  unfold record; split <;> rfl
@[simp] theorem record_msglen (es : List (TraceAddr × Word)) (s : State) : (record es s).msglen = s.msglen := by
  unfold record; split <;> rfl
@[simp] theorem record_padinfo (es : List (TraceAddr × Word)) (s : State) : (record es s).padinfo = s.padinfo := by
  unfold record; split <;> rfl
@[simp] theorem record_blkcount (es : List (TraceAddr × Word)) (s : State) : (record es s).blkcount = s.blkcount := by
  unfold record; split <;> rfl
@[simp] theorem record_blkdone (es : List (TraceAddr × Word)) (s : State) : (record es s).blkdone = s.blkdone := by
  unfold record; split <;> rfl
@[simp] theorem record_tridx (es : List (TraceAddr × Word)) (s : State) : (record es s).tridx = s.tridx := by
  unfold record; split <;> rfl
@[simp] theorem record_inputs (es : List (TraceAddr × Word)) (s : State) : (record es s).inputs = s.inputs := by
  unfold record; split <;> rfl
@[simp] theorem record_rdata (es : List (TraceAddr × Word)) (s : State) : (record es s).rdata = s.rdata := by
  unfold record; split <;> rfl
@[simp] theorem record_aluOut (es : List (TraceAddr × Word)) (s : State) : (record es s).aluOut = s.aluOut := by
  unfold record; split <;> rfl

/-- Without TRACE_ON nothing is recorded (44_trace.md R250). -/
@[simp] theorem record_untraced (es : List (TraceAddr × Word)) (s : State) (h : s.traceOn = false) : record es s = s := by
  simp [record, h]

/-! ### The reset value -/

/-- The reset input, with the draw State.reset names, leaves State.reset but for the instance and the model's own
fields. -/
theorem hardReset_zero (s : State) : hardReset Draw.zero s =
    { State.reset with cfg := s.cfg, inputs := s.inputs, rdata := s.rdata, aluOut := s.aluOut } := rfl

end Sys2Proof.Machine
end

