-- ==== Sys2Proof/Laws/Step.lean ====
section
/-! SUPPORT. What a step can do, and what the shared operations of the commands can do, said once. -/

namespace Sys2Proof.Machine

open Sys2Proof

/-- A step that answers a next state ran an instruction, took the reset input, or waited. -/
theorem step_next_cases {s t : State} (h : step s = .next t) :
    (∃ i, fetch s = .run i ∧ exec i (consume s) = .next t) ∨
    (∃ d, fetch s = .hardReset d ∧ t = hardReset d (consume s)) ∨
    (fetch s = .wait ∧ t = consume s) := by
  unfold step at h
  split at h
  · exact .inl ⟨_, ‹_›, h⟩
  · exact .inr (.inl ⟨_, ‹_›, by simpa using h.symm⟩)
  · exact .inr (.inr ⟨‹_›, by simpa using h.symm⟩)
  · cases h

theorem step_of_run {s : State} {i : Instr} (h : fetch s = .run i) : step s = exec i (consume s) := by
  simp [step, h]

theorem step_of_wait {s : State} (h : fetch s = .wait) : step s = .next (consume s) := by
  simp [step, h]

/-- The next event is an access at the port: its instruction is run (30_encoding.md R111). -/
theorem fetch_port {s : State} {code : BitVec 7} {wdata : Word} {rest : List Input}
    (h : s.inputs = .port code wdata :: rest) : fetch s = .run (decodeBus code wdata) := by
  simp [fetch, h, fetchCode, decode]

/-- The sequencer's turn, with or without the event that says so. -/
theorem fetch_core {s : State} (h : s.inputs = [] ∨ ∃ rest, s.inputs = .core :: rest) : fetch s = fetchCore s := by
  rcases h with h | ⟨rest, h⟩ <;> simp [fetch, h]

/-- A turn of a sequencer that is not BUSY passes (42_compress.md R185). -/
theorem fetchCore_not_busy {s : State} (h : s.phase ≠ .busy) : fetchCore s = .wait := by simp [fetchCore, h]

/-- MSTEP 0: LOAD (R185). -/
theorem fetchCore_load {s : State} (hb : s.phase = .busy) (hm : s.mstep = 0#7) : fetchCore s = .run .load := by
  simp only [fetchCore, hb, hm]; rfl

/-- MSTEP 113: FEEDFWD (R185). -/
theorem fetchCore_feedfwd {s : State} (hb : s.phase = .busy) (hm : s.mstep = 113#7) :
    fetchCore s = .run .feedfwd := by
  simp only [fetchCore, hb, hm]; rfl

theorem fetchCore_expand_at : ∀ idx : Fin 48,
    (match uop (BitVec.ofNat 7 (idx.val + 1)) with
      | some word => fetchCode (.uop word)
      | none => .refuse (.noMicroOp (BitVec.ofNat 7 (idx.val + 1)))) = .run (.expand idx) := by decide

/-- MSTEP 1..48: EXPAND t = MSTEP + 15, so IDX = MSTEP - 1 (R185). -/
theorem fetchCore_expand {s : State} (hb : s.phase = .busy) (idx : Fin 48)
    (hm : s.mstep = BitVec.ofNat 7 (idx.val + 1)) : fetchCore s = .run (.expand idx) := by
  simp only [fetchCore, hb, hm, if_true]; exact fetchCore_expand_at idx

theorem fetchCore_round_at : ∀ i : Fin 64,
    (match uop (BitVec.ofNat 7 (i.val + 49)) with
      | some word => fetchCode (.uop word)
      | none => .refuse (.noMicroOp (BitVec.ofNat 7 (i.val + 49)))) = .run (.round i) := by decide

/-- MSTEP 49..112: ROUND i = MSTEP - 49 (R185). -/
theorem fetchCore_round {s : State} (hb : s.phase = .busy) (i : Fin 64)
    (hm : s.mstep = BitVec.ofNat 7 (i.val + 49)) : fetchCore s = .run (.round i) := by
  simp only [fetchCore, hb, hm, if_true]; exact fetchCore_round_at i

/-- Every outcome of START (43_commands.md R216). -/
theorem startRun_cases (trace : Bool) (s : State) :
    (s.phase = .busy ∧ startRun trace s = raiseErr .busy s) ∨
    (s.phase ≠ .busy ∧ 2 ^ 61 ≤ s.msglen.toNat ∧ startRun trace s = startFail .msgTooLarge s) ∨
    (s.phase ≠ .busy ∧ s.msglen.toNat < 2 ^ 61 ∧ trace = true ∧
      s.cfg.traceCap < (padInfo s.msglen).blockCount.toNat ∧ startRun trace s = startFail .traceCapacity s) ∨
    (s.phase ≠ .busy ∧ s.msglen.toNat < 2 ^ 61 ∧
      (trace = true → (padInfo s.msglen).blockCount.toNat ≤ s.cfg.traceCap) ∧
      startRun trace s = openRun trace (padInfo s.msglen) s) := by
  unfold startRun
  by_cases h1 : s.phase = .busy
  · exact .inl ⟨h1, if_pos h1⟩
  · rw [if_neg h1]
    by_cases h2 : 2 ^ 61 ≤ s.msglen.toNat
    · exact .inr (.inl ⟨h1, h2, if_pos h2⟩)
    · rw [if_neg h2]
      by_cases h3 : trace = true ∧ s.cfg.traceCap < (padInfo s.msglen).blockCount.toNat
      · exact .inr (.inr (.inl ⟨h1, by omega, h3.1, h3.2, if_pos h3⟩))
      · refine .inr (.inr (.inr ⟨h1, by omega, fun ht => ?_, if_neg h3⟩))
        by_contra hc
        exact h3 ⟨ht, by omega⟩

/-- A write that the BUSY rule governs either is refused or has its effect (R212). -/
theorem unlessBusy_cases (f : State → State) (s : State) :
    (s.phase = .busy ∧ unlessBusy f s = raiseErr .busy s) ∨ (s.phase ≠ .busy ∧ unlessBusy f s = f s) := by
  unfold unlessBusy
  by_cases h : s.phase = .busy
  · exact .inl ⟨h, if_pos h⟩
  · exact .inr ⟨h, if_neg h⟩

/-- A write to CMD is the command its word decodes to. -/
theorem execWrCmd_eq (wdata : Word) (s : State) : execWrCmd wdata s = exec (decodeCmd wdata) s := by
  unfold execWrCmd decodeCmd
  cases decodeCommand wdata <;> rfl

end Sys2Proof.Machine
end

