-- ==== Sys2Proof/Laws/Safety.lean ====
section
/-! SUPPORT. The terms of Safety.lean taken apart once: what the invariants depend on, states that differ in the
trace, and runs. -/

namespace Sys2Proof.Machine

open Sys2Proof

/-- StateInv depends on the control state, the latch and the trace storage only. -/
theorem StateInv.congr {s t : State} (h : StateInv s) (hp : t.phase = s.phase) (hc : t.blkcount = s.blkcount)
    (hd : t.blkdone = s.blkdone) (ho : t.traceOn = s.traceOn) (hm : t.mstep = s.mstep) (hg : t.cfg = s.cfg)
    (hl : t.padinfo = s.padinfo) (ht : t.trace = s.trace) : StateInv t where
  idleClear := by rw [hp, hc, hd, ho, hm]; exact h.idleClear
  runOpen := by rw [hp, hc, hd]; exact h.runOpen
  runDone := by rw [hp, hc, hd]; exact h.runDone
  stepZero := by rw [hp, hm]; exact h.stepZero
  stepBound := by rw [hm]; exact h.stepBound
  countBound := by rw [hc]; exact h.countBound
  traceFits := by rw [hc, ho, hg]; exact h.traceFits
  latchOfRun := by rw [hp, hc, hl]; exact h.latchOfRun
  traceWf := by rw [ht]; exact h.traceWf
  traceInside := by rw [ht, hg]; exact h.traceInside

/-- Nothing is said of a block that is not BUSY. -/
theorem BlockInv.of_not_busy {s : State} (h : s.phase ≠ .busy) : BlockInv s :=
  ⟨fun hb => absurd hb h, fun hb => absurd hb h, fun hb => absurd hb h⟩

/-- Nothing is said before LOAD. -/
theorem BlockInv.of_mstep_zero {s : State} (h : s.mstep = 0#7) : BlockInv s := by
  have h0 : s.mstep.toNat = 0 := by rw [h]; rfl
  exact ⟨fun _ hm => absurd hm (by omega), fun _ n hm => absurd hm (by omega), fun _ hm => absurd hm (by omega)⟩

/-- BlockInv depends on STATE, MSTEP, W, v, HASH and, while BUSY, BLK. -/
theorem BlockInv.congr {s t : State} (h : BlockInv s) (hp : t.phase = s.phase) (hm : t.mstep = s.mstep)
    (hb : t.phase = .busy → t.blk = s.blk) (hw : t.w = s.w) (hv : t.v = s.v) (hh : t.hash = s.hash) : BlockInv t where
  loaded := by intro a; rw [hb a, hw, hm]; exact h.loaded (hp ▸ a)
  expanded := by intro a; rw [hw, hm]; exact h.expanded (hp ▸ a)
  rounds := by intro a; rw [hw, hv, hm, hh]; exact h.rounds (hp ▸ a)

/-- States that differ at most in TRACE_ON, the trace storage and the last word read. -/
theorem sameButTrace_iff (s t : State) :
    sameButTrace s t ↔ ∃ on tr x, t = { s with traceOn := on, trace := tr, rdata := x } := by
  constructor
  · intro h
    refine ⟨t.traceOn, t.trace, t.rdata, ?_⟩
    unfold sameButTrace State.untraced at h
    cases s; cases t; simp at h ⊢; simp [h]
  · rintro ⟨on, tr, x, rfl⟩; rfl

/-- The next event does not depend on the trace. -/
theorem fetch_sameButTrace {s t : State} (h : sameButTrace s t) : fetch t = fetch s := by
  obtain ⟨on, tr, x, rfl⟩ := (sameButTrace_iff s t).mp h; rfl

@[simp] theorem runSteps_zero (s : State) : runSteps 0 s = some s := rfl

/-- A run whose first step answers a next state goes on from it. -/
theorem runSteps_of_step {s s' : State} (n : Nat) (h : step s = .next s') : runSteps (n + 1) s = runSteps n s' := by
  simp only [runSteps, h]

end Sys2Proof.Machine
end

