-- ==== Sys2Proof/Laws/Trace.lean ====
section
/-! SUPPORT. The trace storage: every operation keeps its canonical form, a write is read back, and it leaves every
other entry alone (44_trace.md R250, R251). -/

namespace Sys2Proof.Machine

open Sys2Proof

/-! ## The sparse list -/

theorem Trace.wfFrom_mono {lo lo' : Nat} (h : lo' ≤ lo) {tr : List TraceCell} (hw : Trace.wfFrom lo tr = true) :
    Trace.wfFrom lo' tr = true := by
  cases tr with
  | nil => rfl
  | cons c tr =>
    simp only [Trace.wfFrom, Bool.and_eq_true, decide_eq_true_eq] at hw ⊢
    exact ⟨⟨by omega, hw.1.2⟩, hw.2⟩

theorem Trace.put_wfFrom {lo n : Nat} (x : Word) {tr : List TraceCell} (hn : lo ≤ n)
    (hw : Trace.wfFrom lo tr = true) : Trace.wfFrom lo (Trace.put n x tr) = true := by
  induction tr generalizing lo with
  | nil =>
    unfold Trace.put
    split
    · rfl
    · rename_i hx; simp [Trace.wfFrom, hn, hx]
  | cons c tr ih =>
    obtain ⟨m, y⟩ := c
    simp only [Trace.wfFrom, Bool.and_eq_true, decide_eq_true_eq, bne_iff_ne] at hw
    obtain ⟨⟨hm, hy⟩, ht⟩ := hw
    unfold Trace.put
    split_ifs with h1 h2 h3 h4
    · simp [Trace.wfFrom, hm, hy, ht]
    · simp only [Trace.wfFrom, Bool.and_eq_true, decide_eq_true_eq, bne_iff_ne]
      exact ⟨⟨hn, h2⟩, ⟨by omega, hy⟩, ht⟩
    · exact Trace.wfFrom_mono (by omega) ht
    · subst h3; simp [Trace.wfFrom, hn, h4, ht]
    · simp only [Trace.wfFrom, Bool.and_eq_true, decide_eq_true_eq, bne_iff_ne]
      exact ⟨⟨hm, hy⟩, ih (by omega) ht⟩

/-- A write keeps the canonical form. -/
theorem Trace.put_wf (n : Nat) (x : Word) {tr : List TraceCell} (hw : Trace.wf tr = true) :
    Trace.wf (Trace.put n x tr) = true := Trace.put_wfFrom x (Nat.zero_le n) hw

/-- Below its first key a canonical list reads as unlisted. -/
theorem Trace.get_below {lo n : Nat} {tr : List TraceCell} (hn : n < lo) (hw : Trace.wfFrom lo tr = true) :
    Trace.get n tr = Trace.unlisted := by
  induction tr generalizing lo with
  | nil => rfl
  | cons c tr ih =>
    obtain ⟨m, y⟩ := c
    simp only [Trace.wfFrom, Bool.and_eq_true, decide_eq_true_eq] at hw
    have hm : m ≠ n := by omega
    simp only [Trace.get, if_neg hm]
    exact ih (by omega) hw.2

/-- A written word is read back. -/
theorem Trace.get_put_same (n : Nat) (x : Word) {lo : Nat} {tr : List TraceCell} (hw : Trace.wfFrom lo tr = true) :
    Trace.get n (Trace.put n x tr) = x := by
  induction tr generalizing lo with
  | nil => unfold Trace.put; split <;> simp_all [Trace.get]
  | cons c tr ih =>
    obtain ⟨m, y⟩ := c
    have hw' := hw
    simp only [Trace.wfFrom, Bool.and_eq_true, decide_eq_true_eq] at hw
    unfold Trace.put
    split_ifs with h1 h2 h3 h4
    · rw [h2]
      exact Trace.get_below (lo := m) h1 (by simp [Trace.wfFrom] at hw' ⊢; exact ⟨hw'.1.2, hw'.2⟩)
    · simp [Trace.get]
    · rw [h4]; exact Trace.get_below (lo := m + 1) (by omega) hw.2
    · simp [Trace.get]
    · have hm : m ≠ n := by omega
      simp only [Trace.get, if_neg hm]
      exact ih hw.2

/-- A write leaves every other word alone. -/
theorem Trace.get_put_other {m n : Nat} (h : m ≠ n) (x : Word) (tr : List TraceCell) :
    Trace.get m (Trace.put n x tr) = Trace.get m tr := by
  induction tr with
  | nil => unfold Trace.put; split <;> simp [Trace.get, Ne.symm h]
  | cons c tr ih =>
    obtain ⟨a, y⟩ := c
    unfold Trace.put
    split_ifs with h1 h2 h3 h4
    · rfl
    · simp [Trace.get, Ne.symm h]
    · simp [Trace.get, show a ≠ m by omega]
    · subst h3; simp [Trace.get, Ne.symm h]
    · simp only [Trace.get, ih]

/-- A write inside the storage keeps it inside. -/
theorem Trace.put_inside {cap n : Nat} (hn : n < 912 * cap) (x : Word) {tr : List TraceCell}
    (hi : Trace.inside cap tr = true) : Trace.inside cap (Trace.put n x tr) = true := by
  induction tr with
  | nil => unfold Trace.put; split <;> simp [Trace.inside, hn]
  | cons c tr ih =>
    obtain ⟨m, y⟩ := c
    simp only [Trace.inside, List.all_cons, Bool.and_eq_true, decide_eq_true_eq] at hi ih
    unfold Trace.put
    split_ifs <;>
      simp only [Trace.inside, List.all_cons, Bool.and_eq_true, decide_eq_true_eq] <;>
      first
      | exact ⟨hi.1, hi.2⟩
      | exact ⟨hn, hi.1, hi.2⟩
      | exact hi.2
      | exact ⟨hn, hi.2⟩
      | exact ⟨hi.1, ih hi.2⟩

/-! ## Entries -/

/-- An entry lies among the 912 words of its record (R251). -/
theorem TraceAddr.offset_lt (a : TraceAddr) : a.offset < 912 := by
  cases a with
  | initial t => have := t.isLt; simp only [TraceAddr.offset]; omega
  | sched t => have := t.isLt; simp only [TraceAddr.offset]; omega
  | round i f => have := i.isLt; have := f.isLt; simp only [TraceAddr.offset]; omega

/-- Two entries of a record share no word. -/
theorem TraceAddr.offset_inj {a b : TraceAddr} (h : a.offset = b.offset) : a = b := by
  cases a <;> cases b <;> simp only [TraceAddr.offset] at h <;>
    first
    | (exfalso; omega)
    | (rename_i i f j g
       have hi : i = j := by omega
       have hf : f = g := by omega
       rw [hi, hf])
    | (congr 1; omega)

/-- Two entries of the storage share no word (R251). -/
theorem traceKey_inj {b b' : Nat} {a a' : TraceAddr} (h : traceKey b a = traceKey b' a') : b = b' ∧ a = a' := by
  have h1 := a.offset_lt
  have h2 := a'.offset_lt
  unfold traceKey at h
  have hb : b = b' := by omega
  subst hb
  exact ⟨rfl, TraceAddr.offset_inj (by omega)⟩

theorem traceKey_lt {b cap : Nat} (h : b < cap) (a : TraceAddr) : traceKey b a < 912 * cap := by
  have := a.offset_lt
  unfold traceKey
  omega

theorem Trace.write_wf (cap b : Nat) (a : TraceAddr) (x : Word) {tr : List TraceCell} (hw : Trace.wf tr = true) :
    Trace.wf (Trace.write cap b a x tr) = true := by
  unfold Trace.write; split
  · exact Trace.put_wf _ _ hw
  · exact hw

theorem Trace.write_inside (cap b : Nat) (a : TraceAddr) (x : Word) {tr : List TraceCell}
    (hi : Trace.inside cap tr = true) : Trace.inside cap (Trace.write cap b a x tr) = true := by
  unfold Trace.write; split
  · exact Trace.put_inside (traceKey_lt ‹_› a) x hi
  · exact hi

theorem Trace.read_write_same {cap b : Nat} (hb : b < cap) (a : TraceAddr) (x : Word) {tr : List TraceCell}
    (hw : Trace.wf tr = true) : Trace.read (Trace.write cap b a x tr) b a = x := by
  simp only [Trace.write, if_pos hb, Trace.read]
  exact Trace.get_put_same _ _ hw

theorem Trace.read_write_other {cap b b' : Nat} {a a' : TraceAddr} (h : b' ≠ b ∨ a' ≠ a) (x : Word)
    (tr : List TraceCell) : Trace.read (Trace.write cap b a x tr) b' a' = Trace.read tr b' a' := by
  unfold Trace.write; split
  · refine Trace.get_put_other (fun hk => ?_) x tr
    have := traceKey_inj hk
    rcases h with h | h
    · exact h this.1
    · exact h this.2
  · rfl

/-! ## The trace writes of a micro-step -/

/-- Recording changes the trace storage only (R250). -/
theorem record_eq (es : List (TraceAddr × Word)) (s : State) :
    record es s = { s with trace := (record es s).trace } := by
  unfold record; split <;> rfl

/-- Recording keeps the canonical form. -/
theorem record_wf (es : List (TraceAddr × Word)) {s : State} (hw : Trace.wf s.trace = true) :
    Trace.wf (record es s).trace = true := by
  unfold record
  split
  · simp only
    generalize s.trace = tr at hw
    induction es generalizing tr with
    | nil => exact hw
    | cons e es ih => exact ih _ (Trace.write_wf _ _ _ _ hw)
  · exact hw

/-- Recording stays inside the storage. -/
theorem record_inside (es : List (TraceAddr × Word)) {s : State} (hi : Trace.inside s.cfg.traceCap s.trace = true) :
    Trace.inside s.cfg.traceCap (record es s).trace = true := by
  unfold record
  split
  · simp only
    generalize s.trace = tr at hi
    induction es generalizing tr with
    | nil => exact hi
    | cons e es ih => exact ih _ (Trace.write_inside _ _ _ _ hi)
  · exact hi

/-- Recording leaves every entry that it does not list alone. -/
theorem record_read_other (es : List (TraceAddr × Word)) (s : State) {b : Nat} {a : TraceAddr}
    (h : b ≠ s.blkdone.toNat ∨ ∀ e ∈ es, e.1 ≠ a) :
    Trace.read (record es s).trace b a = Trace.read s.trace b a := by
  unfold record
  split
  · simp only
    generalize s.trace = tr
    induction es generalizing tr with
    | nil => rfl
    | cons e es ih =>
      simp only [List.foldl_cons]
      rw [ih (h.imp id fun h e he => h e (List.mem_cons_of_mem _ he)), Trace.read_write_other]
      exact h.imp id fun h => (h e List.mem_cons_self).symm
  · rfl

/-- Every listed entry reads as recorded, when the run is traced and its block has a record. -/
theorem record_read_listed (es : List (TraceAddr × Word)) {s : State} (hon : s.traceOn = true)
    (hb : s.blkdone.toNat < s.cfg.traceCap) (hw : Trace.wf s.trace = true) (hd : (es.map Prod.fst).Nodup)
    {a : TraceAddr} {x : Word} (hm : (a, x) ∈ es) :
    Trace.read (record es s).trace s.blkdone.toNat a = x := by
  have key : ∀ (es : List (TraceAddr × Word)) (tr : List TraceCell), Trace.wf tr = true →
      (es.map Prod.fst).Nodup → (a, x) ∈ es →
      Trace.read (es.foldl (fun tr e => Trace.write s.cfg.traceCap s.blkdone.toNat e.1 e.2 tr) tr)
        s.blkdone.toNat a = x := by
    intro es
    induction es with
    | nil => intro _ _ _ h; cases h
    | cons e es ih =>
      intro tr hw hd hm
      simp only [List.map_cons, List.nodup_cons] at hd
      simp only [List.foldl_cons]
      rcases List.mem_cons.mp hm with h | h
      · subst h
        have hkeep : ∀ (es : List (TraceAddr × Word)) (tr : List TraceCell), a ∉ es.map Prod.fst →
            Trace.read (es.foldl (fun tr e => Trace.write s.cfg.traceCap s.blkdone.toNat e.1 e.2 tr) tr)
              s.blkdone.toNat a = Trace.read tr s.blkdone.toNat a := by
          intro es
          induction es with
          | nil => intro _ _; rfl
          | cons e es ih =>
            intro tr hn
            simp only [List.map_cons, List.mem_cons, not_or] at hn
            simp only [List.foldl_cons]
            rw [ih _ hn.2, Trace.read_write_other (Or.inr hn.1)]
        rw [hkeep es _ hd.1]
        exact Trace.read_write_same hb _ _ hw
      · exact ih _ (Trace.write_wf _ _ _ _ hw) hd.2 h
  simp only [record, hon, if_true]
  exact key es _ hw hd hm

/-- The draw of a reset leaves a canonical storage. -/
theorem Trace.ofCells_wf (cap : Nat) (cells : List TraceCell) : Trace.wf (Trace.ofCells cap cells) = true := by
  have key : ∀ (cells tr : List TraceCell), Trace.wf tr = true →
      Trace.wf (cells.foldl (fun tr c => if c.1 < 912 * cap then Trace.put c.1 c.2 tr else tr) tr) = true := by
    intro cells
    induction cells with
    | nil => intro tr h; exact h
    | cons c cells ih =>
      intro tr h
      refine ih _ ?_
      dsimp only
      split
      · exact Trace.put_wf _ _ h
      · exact h
  exact key cells [] rfl

theorem Trace.ofCells_inside (cap : Nat) (cells : List TraceCell) :
    Trace.inside cap (Trace.ofCells cap cells) = true := by
  have key : ∀ (cells tr : List TraceCell), Trace.inside cap tr = true →
      Trace.inside cap (cells.foldl (fun tr c => if c.1 < 912 * cap then Trace.put c.1 c.2 tr else tr) tr) = true := by
    intro cells
    induction cells with
    | nil => intro tr h; exact h
    | cons c cells ih =>
      intro tr h
      refine ih _ ?_
      dsimp only
      split
      · exact Trace.put_inside ‹_› _ h
      · exact h
  exact key cells [] rfl

end Sys2Proof.Machine
end

