-- ==== Sys2Proof/Machine/HostAsm.lean ====
section
/-! DEFINITION. The host's assembly language (30_encoding.md R113), its pseudo-instructions (R114) and the canonical
host program (70_reset_and_hazards.md R351), as the accesses they issue. They are host software: events the
environment may put on a state's list. -/

namespace Sys2Proof.Machine

open Sys2Proof

/-- REG of R113: the register names of 10_state.md R40. -/
inductive Reg where
  | id | cmd | status | progress | msglenLo | msglenHi | blkcountLo | blkcountHi | blkdoneLo | blkdoneHi | cap
  | blk (t : Fin 16) | hash (k : Fin 8) | tridx | trdata
deriving DecidableEq, Repr

/-- WADDR of a register: its byte offset of R40 divided by 4 (30_encoding.md R101). -/
def regWaddr : Reg → BitVec 6
  | .id => 0x00#6 | .cmd => 0x01#6 | .status => 0x02#6 | .progress => 0x03#6 | .msglenLo => 0x04#6
  | .msglenHi => 0x05#6 | .blkcountLo => 0x06#6 | .blkcountHi => 0x07#6 | .blkdoneLo => 0x08#6
  | .blkdoneHi => 0x09#6 | .cap => 0x0A#6
  | .blk t => 0x10#6 + BitVec.ofNat 6 t.val | .hash k => 0x20#6 + BitVec.ofNat 6 k.val
  | .tridx => 0x30#6 | .trdata => 0x31#6

/-- `rd REG` and `wr REG, VALUE` (R113). -/
def rd (r : Reg) : Input := .port (busCode false (regWaddr r)) 0#32
def wr (r : Reg) (value : Word) : Input := .port (busCode true (regWaddr r)) value

/-- The commands as pseudo-instructions (R114). -/
def asmNop : List Input := [wr .cmd 0x00000000#32]
def asmStart : List Input := [wr .cmd 0x00000001#32]
def asmStartT : List Input := [wr .cmd 0x00000011#32]
def asmBlock : List Input := [wr .cmd 0x00000002#32]
def asmSreset : List Input := [wr .cmd 0x0000000F#32]

/-- `setlen L` (R114): MSGLEN_LO first, then MSGLEN_HI. -/
def asmSetlen (len : BitVec 64) : List Input := [wr .msglenLo (half false len), wr .msglenHi (half true len)]

/-- `ldblk w0, ..., w15` (R114), in that order. -/
def asmLdblk (ws : Vector Word 16) : List Input := blockIndices.map fun t => wr (.blk t) ws[t]

/-- `poll` (R114): one read and `more` further ones; how many depends on the interleaving (93 U8, log 18). -/
def asmPoll (more : Nat) : List Input := List.replicate (more + 1) (rd .status)

/-- `poll` ends with the read whose word has bits [1:0] ≠ 2 (R114). -/
def pollEnds (status : Word) : Bool := status.extractLsb' 0 2 != 2#2

/-- The word `tri B, S, I, F` writes (R114). That bits past the 32nd are dropped, where an operand
is too wide for a word, is DESIGN CHOICE (log 21). -/
def triWord (b s i f : Nat) : Word := BitVec.ofNat 32 (b <<< 16 ||| f <<< 8 ||| s <<< 6 ||| i)
def asmTri (b s i f : Nat) : List Input := [wr .tridx (triWord b s i f)]
/-- `trd B, S, I, F` (R114). -/
def asmTrd (b s i f : Nat) : List Input := asmTri b s i f ++ [rd .trdata]

/-- One block of the canonical program (R351): the words, BLOCK, and a poll; the sequencer has its 114 turns before
the poll's one read, the interleaving the spec's listings show. -/
def asmOneBlock (ws : Vector Word 16) : List Input :=
  asmLdblk ws ++ asmBlock ++ List.replicate 114 .core ++ asmPoll 0

/-- The opening of the canonical program (R351): the length, START or START.T, and the read of STATUS. -/
def asmOpen (trace : Bool) (len : BitVec 64) : List Input :=
  asmSetlen len ++ (if trace then asmStartT else asmStart) ++ [rd .status]

/-- What that read shows if the START succeeded: STATE = 1 and ERR = 0 (R351). -/
def startSucceeded (status : Word) : Bool := status.extractLsb' 0 2 == 1#2 && status.extractLsb' 8 4 == 0#4

/-- The rest of the canonical program (R351): every block, then the digest. -/
def asmRun (bs : List (Vector Word 16)) : List Input :=
  bs.flatMap asmOneBlock
    ++ [rd (.hash 0), rd (.hash 1), rd (.hash 2), rd (.hash 3), rd (.hash 4), rd (.hash 5), rd (.hash 6), rd (.hash 7)]

/-- The canonical host program for a message (R351, R225), with or without the trace. A message of 2^61 bytes or more
has the opening only, since it has no blocks (45_host_reference.md R289); one of 2^64 bytes or more has no program,
since MSGLEN cannot hold its length. R351 says of a failed START only "else the START failed": that this list of
accesses goes on after a START.T that fails with TRACE_CAPACITY, and ends after one that fails with MSG_TOO_LARGE, is
the model's. DESIGN CHOICE (log 20). -/
def hostProgram (trace : Bool) (msg : List Byte) : Option (List Input) :=
  if msg.length < 2 ^ 64 then
    some (asmOpen trace (BitVec.ofNat 64 msg.length) ++
      match messageBlocks msg with
      | some bs => asmRun bs
      | none    => [])
  else none

end Sys2Proof.Machine
end

