-- ==== Sys2Proof/Tests/Slice0.lean ====
section
/-! SUPPORT. The model's own tests: the well-formedness smoke test, words written out from the tables of
30_encoding.md, one or two steps per instruction with the values of 95_test_vectors.md, and a witness for the
hypotheses of every obligation that has some. -/

namespace Sys2Proof.Tests

open Sys2Proof Sys2Proof.Machine

/-! ## Well-formedness: an ill-formed term for each check -/

theorem test_wf_refuses_a_legal_word_as_illegal_command :
    legalCommandWords.map (fun w => (Instr.illegalCmd w).wellFormed) = [false, false, false, false, false] := by decide

theorem test_wf_refuses_a_reserved_read_with_data :
    [Instr.rsv0B false 1#32, .rsv0C0F false 3 1#32, .rsv282F false 7 1#32, .rsv3233 false 1 1#32,
     .rsv3437 false 0 1#32, .rsv383F false 7 1#32].map Instr.wellFormed = [false, false, false, false, false, false] := by
  decide

theorem test_wf_accepts_reserved_accesses_and_illegal_words :
    [Instr.rsv0B false 0#32, .rsv0B true 1#32, .illegalCmd 0x00000003#32, .illegalCmd 0x80000001#32].map
      Instr.wellFormed = [true, true, true, true] := by decide

/-! ## Decoding: a word of every row, bit by bit from R101, R104, R107 and R109 -/

theorem test_decode_control_reads :
    decode (.bus 0b0000000#7 0#32) = .ok .rdId ∧ decode (.bus 0b0000001#7 0#32) = .ok .rdCmd ∧
    decode (.bus 0b0000010#7 0#32) = .ok .rdStatus ∧ decode (.bus 0b0000011#7 0#32) = .ok .rdProgress ∧
    decode (.bus 0b0000100#7 0#32) = .ok (.rdMsglen false) ∧ decode (.bus 0b0000101#7 0#32) = .ok (.rdMsglen true) ∧
    decode (.bus 0b0000110#7 0#32) = .ok (.rdBlkcount false) ∧
    decode (.bus 0b0000111#7 0#32) = .ok (.rdBlkcount true) ∧
    decode (.bus 0b0001000#7 0#32) = .ok (.rdBlkdone false) ∧ decode (.bus 0b0001001#7 0#32) = .ok (.rdBlkdone true) ∧
    decode (.bus 0b0001010#7 0#32) = .ok .rdCap :=
  ⟨rfl, rfl, rfl, rfl, rfl, rfl, rfl, rfl, rfl, rfl, rfl⟩

theorem test_decode_control_writes :
    decode (.bus 0b1000000#7 9#32) = .ok (.wrId 9#32) ∧ decode (.bus 0b1000001#7 9#32) = .ok (.wrCmd 9#32) ∧
    decode (.bus 0b1000010#7 9#32) = .ok (.wrStatus 9#32) ∧ decode (.bus 0b1000011#7 9#32) = .ok (.wrProgress 9#32) ∧
    decode (.bus 0b1000100#7 9#32) = .ok (.wrMsglen false 9#32) ∧
    decode (.bus 0b1000101#7 9#32) = .ok (.wrMsglen true 9#32) ∧
    decode (.bus 0b1000111#7 9#32) = .ok (.wrBlkcount true 9#32) ∧
    decode (.bus 0b1001000#7 9#32) = .ok (.wrBlkdone false 9#32) ∧ decode (.bus 0b1001010#7 9#32) = .ok (.wrCap 9#32) :=
  ⟨rfl, rfl, rfl, rfl, rfl, rfl, rfl, rfl, rfl⟩

theorem test_decode_data_and_trace_accesses :
    decode (.bus 0b0010000#7 0#32) = .ok (.rdBlk 0) ∧ decode (.bus 0b0011111#7 0#32) = .ok (.rdBlk 15) ∧
    decode (.bus 0b1011111#7 9#32) = .ok (.wrBlk 15 9#32) ∧ decode (.bus 0b0100111#7 0#32) = .ok (.rdHash 7) ∧
    decode (.bus 0b1100000#7 9#32) = .ok (.wrHash 0 9#32) ∧ decode (.bus 0b0110000#7 0#32) = .ok .rdTridx ∧
    decode (.bus 0b1110000#7 9#32) = .ok (.wrTridx 9#32) ∧ decode (.bus 0b0110001#7 0#32) = .ok .rdTrdata ∧
    decode (.bus 0b1110001#7 9#32) = .ok (.wrTrdata 9#32) :=
  ⟨rfl, rfl, rfl, rfl, rfl, rfl, rfl, rfl, rfl⟩

theorem test_decode_reserved_accesses :
    decode (.bus 0b0001011#7 0#32) = .ok (.rsv0B false 0#32) ∧
    decode (.bus 0b1001111#7 9#32) = .ok (.rsv0C0F true 3 9#32) ∧
    decode (.bus 0b0101000#7 0#32) = .ok (.rsv282F false 0 0#32) ∧
    decode (.bus 0b1110011#7 9#32) = .ok (.rsv3233 true 1 9#32) ∧
    decode (.bus 0b0110100#7 0#32) = .ok (.rsv3437 false 0 0#32) ∧
    decode (.bus 0b1111111#7 9#32) = .ok (.rsv383F true 7 9#32) :=
  ⟨rfl, rfl, rfl, rfl, rfl, rfl⟩

theorem test_decode_commands :
    decode (.cmd 0x00000000#32) = .ok .nop ∧ decode (.cmd 0x00000001#32) = .ok .start ∧
    decode (.cmd 0x00000011#32) = .ok .startT ∧ decode (.cmd 0x00000002#32) = .ok .block ∧
    decode (.cmd 0x0000000F#32) = .ok .sreset ∧ decode (.cmd 0x00000010#32) = .ok (.illegalCmd 0x00000010#32) ∧
    decode (.cmd 0x00000021#32) = .ok (.illegalCmd 0x00000021#32) ∧
    decode (.cmd 0x80000001#32) = .ok (.illegalCmd 0x80000001#32) :=
  ⟨rfl, rfl, rfl, rfl, rfl, rfl, rfl, rfl⟩

theorem test_decode_micro_ops :
    decode (.uop 0b00000000#8) = .ok .load ∧ decode (.uop 0b01000000#8) = .ok (.expand 0) ∧
    decode (.uop 0b01101111#8) = .ok (.expand 47) ∧ decode (.uop 0b10000000#8) = .ok (.round 0) ∧
    decode (.uop 0b10111111#8) = .ok (.round 63) ∧ decode (.uop 0b11000000#8) = .ok .feedfwd ∧
    decode (.uop 0b00000001#8) = .error (.reservedMicroOp 0b00000001#8) ∧
    decode (.uop 0b01110000#8) = .error (.reservedMicroOp 0b01110000#8) ∧
    decode (.uop 0b11111111#8) = .error (.reservedMicroOp 0b11111111#8) :=
  ⟨rfl, rfl, rfl, rfl, rfl, rfl, rfl, rfl, rfl⟩

/-- Operand wires that all differ. -/
def wires : AluIn := { x1 := 1#32, x2 := 2#32, x3 := 3#32, x4 := 4#32, x5 := 5#32, n := 6 }

theorem test_decode_alu_functions :
    decode (.alu 0b0000#4 wires) = .ok (.add32 1#32 2#32 3#32 4#32 5#32) ∧
    decode (.alu 0b0001#4 wires) = .ok (.rotr 1#32 6) ∧ decode (.alu 0b0010#4 wires) = .ok (.shr 1#32 6) ∧
    decode (.alu 0b0011#4 wires) = .ok (.xor32 1#32 2#32 3#32) ∧ decode (.alu 0b0100#4 wires) = .ok (.and32 1#32 2#32) ∧
    decode (.alu 0b0101#4 wires) = .ok (.not32 1#32) ∧ decode (.alu 0b0110#4 wires) = .ok (.ch 1#32 2#32 3#32) ∧
    decode (.alu 0b0111#4 wires) = .ok (.maj 1#32 2#32 3#32) ∧ decode (.alu 0b1000#4 wires) = .ok (.bsig0 1#32) ∧
    decode (.alu 0b1001#4 wires) = .ok (.bsig1 1#32) ∧ decode (.alu 0b1010#4 wires) = .ok (.ssig0 1#32) ∧
    decode (.alu 0b1011#4 wires) = .ok (.ssig1 1#32) ∧
    decode (.alu 0b1100#4 wires) = .error (.reservedAluFunction 0b1100#4) :=
  ⟨rfl, rfl, rfl, rfl, rfl, rfl, rfl, rfl, rfl, rfl, rfl, rfl, rfl⟩

/-! ## The table's words -/

theorem test_table_words_and_fetch :
    decodeTableWord 7 0x41 = some (.wrCmd 0#32) ∧ decodeTableWord 8 0x7F = some (.rsv383F true 7 0#32) ∧
    decodeTableWord 32 0x11 = some .startT ∧ decodeTableWord 8 0xC0 = some .feedfwd ∧
    decodeTableWord 4 0xB = some (.ssig1 0#32) :=
  ⟨rfl, rfl, rfl, rfl, rfl⟩

theorem test_fetch_word_runs_next :
    fetch (State.reset.withFetchWord 8 0x30) = .run .rdTridx ∧
    fetch (State.reset.withFetchWord 32 0x2) = .run (.wrCmd 2#32) ∧
    fetch (State.reset.withFetchWord 8 0x85) = .run (.round 5) ∧
    fetch (State.reset.withFetchWord 4 0x7) = .run (.maj 0#32 0#32 0#32) :=
  ⟨rfl, rfl, rfl, rfl⟩

/-! ## Small states -/

/-- The block of "abc" (95_test_vectors.md 2.2.2). -/
def abcBlock : Vector Word 16 :=
  #v[0x61626380#32, 0#32, 0#32, 0#32, 0#32, 0#32, 0#32, 0#32, 0#32, 0#32, 0#32, 0#32, 0#32, 0#32, 0#32, 0x18#32]

/-- READY after `setlen 3; start` or `start.t`, with the block of "abc" in BLK. -/
def readyState (trace : Bool) : State :=
  { State.reset with phase := .ready, msglen := 3#64, padinfo := padInfo 3#64, blkcount := 1#64, hash := h0
                     blk := abcBlock, traceOn := trace }

/-- BUSY at a micro-step, a..h at H0 and W[0..15] the block. -/
def busyState (trace : Bool) (mstep : BitVec 7) : State :=
  { readyState trace with phase := .busy, mstep := mstep, v := h0, w := loadSchedule abcBlock State.reset.w }

/-- DONE after the run. -/
def doneState (trace : Bool) : State := { readyState trace with phase := .done, blkdone := 1#64 }

/-- A state with a message length. -/
def withLen (len : BitVec 64) : State := { State.reset with msglen := len }

/-- A field of the next state of an outcome. -/
def field {α : Type} (f : State → α) : Result → Option α
  | .next t => some (f t)
  | _ => none

/-! ## Accesses (95_test_vectors.md 2.7 and 10_state.md) -/

theorem test_rd_id_cmd_cap :
    field State.rdata (exec .rdId State.reset) = some 0x53323536#32 ∧
    field State.rdata (exec .rdCmd { State.reset with rdata := 7#32 }) = some 0#32 ∧
    field State.rdata (exec .rdCap State.reset) = some 4#32 := ⟨rfl, rfl, rfl⟩

theorem test_rd_status :
    field State.rdata (exec .rdStatus (readyState true)) = some 0x0000000D#32 ∧
    field State.rdata (exec .rdStatus { State.reset with err := .traceCapacity }) = some 0x00000200#32 := by decide

theorem test_rd_progress : field State.rdata (exec .rdProgress (busyState false 113#7)) = some 113#32 := by decide

theorem test_rd_halves :
    field State.rdata (exec (.rdMsglen true) (withLen 0x0123456789ABCDEF#64)) = some 0x01234567#32 ∧
    field State.rdata (exec (.rdMsglen false) (withLen 0x0123456789ABCDEF#64)) = some 0x89ABCDEF#32 ∧
    field State.rdata (exec (.rdBlkcount true) { State.reset with blkcount := 0x0080000000000001#64 }) =
      some 0x00800000#32 ∧
    field State.rdata (exec (.rdBlkdone false) (doneState false)) = some 1#32 := by decide

theorem test_rd_blk_hash :
    field State.rdata (exec (.rdBlk 15) (readyState false)) = some 0x18#32 ∧
    field State.rdata (exec (.rdHash 7) (readyState false)) = some 0x5BE0CD19#32 := by decide

theorem test_wr_msglen :
    field State.msglen (exec (.wrMsglen true 0x20000000#32) (withLen 5#64)) = some 0x2000000000000005#64 ∧
    field State.err (exec (.wrMsglen false 9#32) (busyState false 10#7)) = some .busy := by decide

theorem test_wr_blk :
    field (fun t => t.blk[3]) (exec (.wrBlk 3 0xDEADBEEF#32) (doneState false)) = some 0xDEADBEEF#32 ∧
    field (fun t => (t.blk[3], t.err)) (exec (.wrBlk 3 0xDEADBEEF#32) (busyState false 10#7)) = some (0#32, .busy) := by
  decide

theorem test_tridx :
    field (fun t => t.tridx.toWord) (exec (.wrTridx 0xFFFFFFFF#32) State.reset) = some 0xFFFF0FFF#32 ∧
    field State.rdata (exec .rdTridx { State.reset with tridx := TrIdx.ofWord 0x000003C0#32 }) = some 0x000003C0#32 := by
  decide

theorem test_trdata_padding :
    field State.rdata (exec .rdTrdata { readyState true with tridx := TrIdx.ofWord 3#32 }) = some 0x1A7#32 ∧
    field State.rdata (exec .rdTrdata { readyState true with tridx := TrIdx.ofWord 10#32 }) = some 0#32 := by decide

theorem test_ignored_writes_change_nothing :
    exec (.wrId 9#32) (busyState true 5#7) = .next (busyState true 5#7) ∧
    exec (.wrStatus 9#32) (busyState true 5#7) = .next (busyState true 5#7) ∧
    exec (.wrProgress 9#32) (busyState true 5#7) = .next (busyState true 5#7) ∧
    exec (.wrBlkcount true 9#32) (busyState true 5#7) = .next (busyState true 5#7) ∧
    exec (.wrBlkdone true 9#32) (busyState true 5#7) = .next (busyState true 5#7) ∧
    exec (.wrCap 9#32) (busyState true 5#7) = .next (busyState true 5#7) ∧
    exec (.wrHash 2 9#32) (busyState true 5#7) = .next (busyState true 5#7) ∧
    exec (.wrTrdata 9#32) (busyState true 5#7) = .next (busyState true 5#7) := ⟨rfl, rfl, rfl, rfl, rfl, rfl, rfl, rfl⟩

theorem test_reserved_accesses :
    [Instr.rsv0B false 0#32, .rsv0C0F false 0 0#32, .rsv282F false 0 0#32, .rsv3233 false 0 0#32, .rsv3437 false 0 0#32,
     .rsv383F false 0 0#32].map (fun i => field State.rdata (exec i { State.reset with rdata := 7#32 })) =
      [some 0#32, some 0#32, some 0#32, some 0#32, some 0#32, some 0#32] ∧
    [Instr.rsv0B true 1#32, .rsv0C0F true 0 1#32, .rsv282F true 0 1#32, .rsv3233 true 0 1#32, .rsv3437 true 0 1#32,
     .rsv383F true 0 1#32].map (fun i => field State.rdata (exec i { State.reset with rdata := 7#32 })) =
      [some 7#32, some 7#32, some 7#32, some 7#32, some 7#32, some 7#32] := by decide

/-! ## Commands (95_test_vectors.md 2.2.4 and 2.6) -/

theorem test_cmd_nop : exec (.wrCmd 0#32) (busyState true 10#7) = .next (busyState true 10#7) := rfl

theorem test_cmd_start :
    field (fun t => (t.phase, t.err, t.traceOn)) (exec .start (withLen 300#64)) = some (.ready, .none, false) ∧
    field (fun t => (t.phase, t.err, t.blkcount)) (exec .start (withLen 0x1FFFFFFFFFFFFFFF#64)) =
      some (.ready, .none, 0x0080000000000001#64) := by decide

theorem test_cmd_start_trace :
    field (fun t => (t.phase, t.err, t.blkcount)) (exec .startT (withLen 184#64)) = some (.ready, .none, 4#64) ∧
    field (fun t => (t.phase, t.err, t.blkcount)) (exec .startT (withLen 248#64)) = some (.idle, .traceCapacity, 0#64) := by
  decide

theorem test_cmd_start_checks_length_first :
    field State.err (exec .start (withLen 0x2000000000000000#64)) = some .msgTooLarge ∧
    field State.err (exec .startT (withLen 0x2000000000000000#64)) = some .msgTooLarge := by decide

theorem test_cmd_block :
    field (fun t => (t.phase, t.mstep, t.err)) (exec .block (readyState false)) = some (.busy, 0#7, .none) ∧
    field (fun t => (t.phase, t.err)) (exec .block (doneState false)) = some (.done, .badSequence) := by decide

theorem test_cmd_sreset :
    field (fun t => (t.phase, t.mstep, t.msglen)) (exec .sreset (busyState true 60#7)) = some (.idle, 0#7, 0#64) ∧
    field (fun t => t.hash[0]) (exec .sreset (busyState true 60#7)) = some 0x6A09E667#32 := by decide

theorem test_cmd_illegal :
    field (fun t => (t.phase, t.err)) (exec (.wrCmd 0x00000021#32) (busyState false 10#7)) = some (.busy, .illegalCmd) ∧
    field (fun t => (t.phase, t.err)) (exec (.illegalCmd 3#32) (readyState false)) = some (.ready, .illegalCmd) := by
  decide

/-! ## Micro-ops (95_test_vectors.md 2.3, 2.4 and 2.5) -/

theorem test_load :
    field (fun t => (t.w[0], t.w[15], t.v[4], t.mstep)) (exec .load { readyState false with phase := .busy }) =
      some (0x61626380#32, 0x18#32, 0x510E527F#32, 1#7) := by decide

theorem test_expand :
    field (fun t => (t.w[17], t.mstep)) (exec (.expand 1) (busyState false 2#7)) = some (0x000F0000#32, 3#7) := by decide

theorem test_round_sums :
    field (fun t => (t.t1, t.t2)) (exec (.round 0) (busyState false 49#7)) = some (0x54DA50E8#32, 0x08909AE5#32) := by
  decide

theorem test_round_registers :
    field (fun t => (t.v[0], t.v[1], t.v[4], t.v[7])) (exec (.round 0) (busyState false 49#7)) =
      some (0x5D6AEBCD#32, 0x6A09E667#32, 0xFA2A4622#32, 0x1F83D9AB#32) := by decide

/-- Row 63 of table 2.4. -/
def lastRegisters : Vector Word 8 :=
  #v[0x506E3058#32, 0xD39A2165#32, 0x04D24D6C#32, 0xB85E2CE9#32, 0x5EF50F24#32, 0xFB121210#32, 0x948D25B6#32, 0x961F4894#32]

theorem test_feedfwd :
    field (fun t => (t.hash[0], t.hash[7])) (exec .feedfwd { busyState false 113#7 with v := lastRegisters }) =
      some (0xBA7816BF#32, 0xF20015AD#32) ∧
    field (fun t => (t.phase, t.blkdone, t.mstep)) (exec .feedfwd { busyState false 113#7 with v := lastRegisters }) =
      some (.done, 1#64, 0#7) := by decide

/-! ## The ALU (95_test_vectors.md 2.1) -/

theorem test_add32 :
    field State.aluOut (exec (.add32 0xFFFFFFFF#32 0xFFFFFFFF#32 0xFFFFFFFF#32 0xFFFFFFFF#32 0xFFFFFFFF#32) State.reset)
      = some 0xFFFFFFFB#32 ∧
    field State.aluOut (exec (.add32 0x6A09E667#32 0xBB67AE85#32 0#32 0#32 0#32) State.reset) = some 0x257194EC#32 := by
  decide

theorem test_rotr :
    field State.aluOut (exec (.rotr 0x80000001#32 31) State.reset) = some 0x00000003#32 ∧
    field State.aluOut (exec (.rotr 0x12345678#32 0) State.reset) = some 0x12345678#32 := by decide

theorem test_shr :
    field State.aluOut (exec (.shr 0x80000000#32 31) State.reset) = some 0x00000001#32 ∧
    field State.aluOut (exec (.shr 0x12345678#32 0) State.reset) = some 0x12345678#32 := by decide

theorem test_bitwise :
    field State.aluOut (exec (.xor32 0xF0F0F0F0#32 0xFF00FF00#32 0#32) State.reset) = some 0x0FF00FF0#32 ∧
    field State.aluOut (exec (.and32 0xF0F0F0F0#32 0xFF00FF00#32) State.reset) = some 0xF000F000#32 ∧
    field State.aluOut (exec (.not32 0x0F0F0F0F#32) State.reset) = some 0xF0F0F0F0#32 := by decide

theorem test_ch_maj :
    field State.aluOut (exec (.ch 0xFF00FF00#32 0x12345678#32 0x9ABCDEF0#32) State.reset) = some 0x12BC56F0#32 ∧
    field State.aluOut (exec (.maj 0xFF00FF00#32 0x12345678#32 0x9ABCDEF0#32) State.reset) = some 0x9A34DE70#32 := by decide

theorem test_sigmas :
    field State.aluOut (exec (.bsig0 0x6A09E667#32) State.reset) = some 0xCE20B47E#32 ∧
    field State.aluOut (exec (.bsig1 0x510E527F#32) State.reset) = some 0x3587272B#32 ∧
    field State.aluOut (exec (.ssig0 0x61626380#32) State.reset) = some 0x940E90EF#32 ∧
    field State.aluOut (exec (.ssig1 0x61626380#32) State.reset) = some 0x7DA86405#32 := by decide

/-! ## Host software (95_test_vectors.md 2.2.2 and 2.2.3) -/

theorem test_pack_abc :
    (messageBlocks [0x61#8, 0x62#8, 0x63#8]).map (fun bs => bs.map fun b => (b[0], b[15])) =
      some [(0x61626380#32, 0x18#32)] := by decide

theorem test_host_words :
    wr (.blk 0) 0x61626380#32 = .port 0x50#7 0x61626380#32 ∧ rd .trdata = .port 0x31#7 0#32 ∧
    triWord 0 3 0 3 = 0x000003C0#32 ∧ hex [0xBA#8, 0x78#8] = "ba78" := ⟨rfl, rfl, rfl, rfl⟩

/-! ## Witnesses: concrete inputs that meet the hypotheses of the obligations, at the edges of their ranges -/

theorem inv_ready (trace : Bool) : StateInv (readyState trace) where
  idleClear := by cases trace <;> decide
  runOpen := by cases trace <;> decide
  runDone := by cases trace <;> decide
  stepZero := by cases trace <;> decide
  stepBound := by cases trace <;> decide
  countBound := by cases trace <;> decide
  traceFits := by cases trace <;> decide
  latchOfRun := fun _ => ⟨rfl, 3#64, by decide, rfl⟩
  traceWf := rfl
  traceInside := rfl

theorem inv_busy (trace : Bool) : StateInv (busyState trace 50#7) where
  idleClear := by cases trace <;> decide
  runOpen := by cases trace <;> decide
  runDone := by cases trace <;> decide
  stepZero := by cases trace <;> decide
  stepBound := by cases trace <;> decide
  countBound := by cases trace <;> decide
  traceFits := by cases trace <;> decide
  latchOfRun := fun _ => ⟨rfl, 3#64, by decide, rfl⟩
  traceWf := rfl
  traceInside := rfl

theorem inv_done (trace : Bool) : StateInv (doneState trace) where
  idleClear := by cases trace <;> decide
  runOpen := by cases trace <;> decide
  runDone := by cases trace <;> decide
  stepZero := by cases trace <;> decide
  stepBound := by cases trace <;> decide
  countBound := by cases trace <;> decide
  traceFits := by cases trace <;> decide
  latchOfRun := fun _ => ⟨rfl, 3#64, by decide, rfl⟩
  traceWf := rfl
  traceInside := rfl

theorem witness_DecodeEncodeRoundTrip :
    (Instr.illegalCmd 0x00000003#32).wellFormed = true ∧ (Instr.rsv383F true 7 1#32).wellFormed = true ∧
    (Instr.expand 47).wellFormed = true := by decide

theorem witness_EncodeDecodeAgree : decode (.uop 0xBF#8) = .ok (.round 63) ∧ decode (.bus 0x0B#7 5#32) = .ok (.rsv0B false 0#32) :=
  ⟨rfl, rfl⟩

theorem witness_CommandWordLegality :
    (0x00000011#32 : Word).extractLsb' 0 4 = 0x1#4 ∧ (0x00000011#32 : Word).extractLsb' 5 27 = 0#27 ∧
    (0x00000021#32 : Word).extractLsb' 5 27 ≠ 0#27 := by decide

theorem witness_MicroOpWords : (113#7 : BitVec 7).toNat ≤ 113 ∧ 113 < (114#7 : BitVec 7).toNat := by decide

theorem witness_AluFunctionSelect :
    0xC ≤ (0xC#4 : BitVec 4).toNat ∧ ({ State.reset with inputs := [.alu 0xC#4 wires] }).inputs = .alu 0xC#4 wires :: [] :=
  ⟨by decide, rfl⟩

/-- A draw with a trace of its own. -/
def someDraw : Draw := { Draw.zero with t1 := 5#32, trace := [(3, 7#32), (0, 9#32)] }

theorem witness_ResetAndSoftReset :
    ({ busyState true 50#7 with inputs := [.reset someDraw, .core] }).inputs = .reset someDraw :: [.core] := rfl

theorem witness_StepKeepsInvariant : StateInv (busyState true 50#7) ∧ ∃ t, step (busyState true 50#7) = .next t :=
  ⟨inv_busy true, _, rfl⟩

theorem witness_EveryEventHasAStep :
    StateInv { readyState true with inputs := [.bus true 252 1#32] } ∧
    ∀ e ∈ ({ readyState true with inputs := [Input.bus true 252 1#32] }).inputs.head?,
      e.spells ({ readyState true with inputs := [Input.bus true 252 1#32] }).cfg = true := by
  refine ⟨?_, by decide⟩
  have h := inv_ready true
  exact ⟨h.1, h.2, h.3, h.4, h.5, h.6, h.7, h.8, h.9, h.10⟩

theorem witness_BusAddressWindow :
    (0 = Config.vectors.base + 4 * 0 ∧ 252 = Config.vectors.base + 4 * 63) ∧
    (∀ a, a < 64 → 256 ≠ Config.vectors.base + 4 * a) ∧ (∀ a, a < 64 → 2 ≠ Config.vectors.base + 4 * a) := by decide

theorem witness_StepRunsDecodedAccess :
    decode (.bus 0x7F#7 1#32) = .ok (.rsv383F true 7 1#32) ∧ decode (.alu 0xB#4 wires) = .ok (.ssig1 1#32) := ⟨rfl, rfl⟩

theorem witness_StepRunsMicroOp :
    (readyState true).phase ≠ .busy ∧ (readyState true).inputs = [] ∧ (busyState true 0#7).phase = .busy ∧
    (busyState true 0#7).mstep.toNat = 0 ∧ (busyState true 1#7).mstep.toNat = (0 : Fin 48).val + 1 ∧
    (busyState true 48#7).mstep.toNat = (47 : Fin 48).val + 1 ∧ (busyState true 49#7).mstep.toNat = (0 : Fin 64).val + 49 ∧
    (busyState true 112#7).mstep.toNat = (63 : Fin 64).val + 49 ∧ (busyState true 113#7).mstep.toNat = 113 := by decide

theorem witness_TraceDataRead :
    trValid { busyState true 50#7 with tridx := TrIdx.ofWord 0x00000009#32 } = true ∧
    trValid { busyState true 50#7 with tridx := TrIdx.ofWord 0x0000004F#32 } = true ∧
    trValid { busyState true 50#7 with tridx := TrIdx.ofWord 0x000000BF#32 } = true ∧
    trValid { busyState true 50#7 with tridx := TrIdx.ofWord 0x00000CC0#32 } = true ∧
    trValid { busyState true 50#7 with tridx := TrIdx.ofWord 0x00000CC1#32 } = false ∧
    trValid { busyState true 50#7 with tridx := TrIdx.ofWord 0x00000DC0#32 } = false ∧
    trValid { busyState true 50#7 with tridx := TrIdx.ofWord 0x00000050#32 } = false := by decide

theorem witness_PaddingItemsRead :
    (readyState true).traceOn = true ∧ (readyState true).phase ≠ .idle ∧
    (TrIdx.ofWord 9#32).sect = 0#2 ∧ (TrIdx.ofWord 9#32).index.toNat ≤ 9 ∧ (TrIdx.ofWord 0#32).index.toNat ≤ 9 := by decide

theorem witness_BlkAndMsglenWrites_BusyRule_BlockOutcomes :
    (readyState true).phase = .ready ∧ (busyState true 10#7).phase = .busy ∧ (doneState true).phase = .done ∧
    State.reset.phase = .idle := by decide

theorem witness_StartOutcomes :
    (withLen 0x2000000000000000#64).phase ≠ .busy ∧ 2 ^ 61 ≤ (withLen 0x2000000000000000#64).msglen.toNat ∧
    (withLen 248#64).msglen.toNat < 2 ^ 61 ∧
    (withLen 248#64).cfg.traceCap < ((withLen 248#64).msglen.toNat + 8) / 64 + 1 ∧
    ((withLen 247#64).msglen.toNat + 8) / 64 + 1 ≤ (withLen 247#64).cfg.traceCap ∧
    (withLen 0x1FFFFFFFFFFFFFFF#64).msglen.toNat < 2 ^ 61 := by decide

theorem witness_PaddingMetrics :
    (0x1FFFFFFFFFFFFFFF#64 : BitVec 64).toNat < 2 ^ 61 ∧ 2 ^ 61 ≤ (0x2000000000000000#64 : BitVec 64).toNat ∧
    State.reset.phase ≠ .busy := by decide

theorem witness_ErrChangesOnlyByErrorsAndClears :
    field State.err (exec (.wrBlk 15 1#32) (busyState true 10#7)) = some .busy ∧ (busyState true 10#7).err = .none ∧
    field State.err (exec (.wrCmd 3#32) (readyState true)) = some .illegalCmd ∧
    field State.err (exec .block State.reset) = some .badSequence ∧
    field State.err (exec .sreset { State.reset with err := .badSequence }) = some .none := by decide

theorem witness_DataElementWriters_ControlElementWriters : ∃ t, exec (.round 0) (busyState true 49#7) = .next t := ⟨_, rfl⟩

theorem witness_LoadResult_ExpandResult_RoundResult :
    (busyState true 49#7).traceOn = true ∧ (busyState false 49#7).traceOn = false ∧
    (busyState true 49#7).blkdone.toNat < (busyState true 49#7).cfg.traceCap ∧
    Trace.wf (busyState true 49#7).trace = true := by decide

theorem witness_ScheduleFileHoldsSchedule_BlockCompressesIn114Steps :
    (busyState true 0#7).phase = .busy ∧ (busyState true 0#7).mstep = 0#7 ∧ (busyState true 0#7).inputs = [] :=
  ⟨rfl, rfl, rfl⟩

/-- The state of a block at its start meets the block invariant. -/
theorem blockInv_start (trace : Bool) : BlockInv (busyState trace 0#7) where
  loaded := fun _ h => absurd h (by cases trace <;> decide)
  expanded := fun _ n h => absurd h (by have h0 : (busyState trace 0#7).mstep.toNat = 0 := rfl; omega)
  rounds := fun _ h => absurd h (by cases trace <;> decide)

/-- A block that has done every micro-step but its last: W of an all-zero block is all zero. -/
def lastStepState : State :=
  { State.reset with phase := .busy, mstep := 113#7, blkcount := 1#64
                     v := (kTable.zip State.reset.w.toList).foldl roundStep State.reset.hash }

theorem witness_StepKeepsBlockInvariant : BlockInv (busyState true 0#7) ∧ ∃ t, step (busyState true 0#7) = .next t :=
  ⟨blockInv_start true, _, rfl⟩

theorem witness_FinishedBlockIsCompressed :
    BlockInv lastStepState ∧ lastStepState.phase = .busy ∧ lastStepState.mstep = 113#7 ∧ lastStepState.inputs = [] :=
  ⟨⟨fun _ _ => by decide, fun _ n _ => by revert n; decide, fun _ _ => rfl⟩, rfl, rfl, rfl⟩

/-- A read of STATUS shows the trace, and nothing else of the two states differs. -/
theorem witness_TraceNeverAltersTheResult :
    sameButTrace { busyState true 113#7 with inputs := [.port 0x02#7 0#32] }
      { busyState false 113#7 with inputs := [.port 0x02#7 0#32] } ∧
    (∃ t, step { busyState true 113#7 with inputs := [.port 0x02#7 0#32] } = .next t) ∧
    (padInfo (withLen 247#64).msglen).blockCount.toNat ≤ (withLen 247#64).cfg.traceCap ∧
    (busyState true 113#7).inputs = [] ∧ ∃ t, runSteps 2 (busyState true 113#7) = some t :=
  ⟨rfl, ⟨_, rfl⟩, by decide, rfl, _, rfl⟩

/-- Events of a host that interferes with a block: a refused write, a turn, a read at the last byte address. -/
def interference : List Input := [.port 0x50#7 9#32, .core, .bus false 252 0#32]

theorem witness_InterleavingDoesNotMatter :
    (busyState true 112#7).phase = .busy ∧ (busyState true 112#7).mstep.toNat + interference.count .core ≤ 113 ∧
    ∀ e ∈ interference, e = .core ∨ (∃ code w, e = .port code w ∧ decodeBus code w ≠ .wrCmd 0x0000000F#32) ∨
      ∃ we addr w waddr, e = .bus we addr w ∧ windowAddr (busyState true 112#7).cfg addr = some waddr ∧
        decodeBus (busCode we waddr) w ≠ .wrCmd 0x0000000F#32 := by
  refine ⟨rfl, by decide, ?_⟩
  intro e he
  simp only [interference, List.mem_cons, List.not_mem_nil, or_false] at he
  rcases he with rfl | rfl | rfl
  · exact .inr (.inl ⟨_, _, rfl, by decide⟩)
  · exact .inl rfl
  · exact .inr (.inr ⟨_, _, _, 63#6, rfl, by decide, by decide⟩)

theorem witness_ValidEntriesAreImmutable :
    StateInv (busyState true 50#7) ∧ (∃ t, step (busyState true 50#7) = .next t) ∧
    trValid { busyState true 50#7 with tridx := TrIdx.ofWord 0x00000CC0#32 } = true ∧
    fetch (busyState true 50#7) = .run (.round 1) :=
  ⟨inv_busy true, ⟨_, rfl⟩, by decide, rfl⟩

theorem witness_DoneTraceIsComplete :
    StateInv (doneState true) ∧ (doneState true).phase = .done ∧ (doneState true).traceOn = true ∧
    0 < (doneState true).blkcount.toNat :=
  ⟨inv_done true, rfl, rfl, by decide⟩

theorem witness_ValidEntriesLieInside :
    StateInv { doneState true with tridx := TrIdx.ofWord 0x00000CFF#32 } ∧
    trValid { doneState true with tridx := TrIdx.ofWord 0x00000CFF#32 } = true ∧ (TrIdx.ofWord 0x00000CFF#32).sect ≠ 0#2 := by
  have h := inv_done true
  exact ⟨⟨h.1, h.2, h.3, h.4, h.5, h.6, h.7, h.8, h.9, h.10⟩, by decide, by decide⟩

theorem witness_PaddedMessage :
    (∃ msg : List Byte, 2 ^ 61 ≤ msg.length) ∧ ([] : List Byte).length < 2 ^ 61 :=
  ⟨⟨List.replicate (2 ^ 61) 0#8, by rw [List.length_replicate]⟩, by decide⟩

theorem witness_ScheduleRecurrence_PackAndSerialise :
    16 ≤ 63 ∧ 63 < 64 ∧ (List.replicate 64 0x61#8).length = 64 := by decide

theorem test_host_reads_status_after_start :
    startSucceeded 0x0000000D#32 = true ∧ startSucceeded 0x00000200#32 = false ∧ startSucceeded 0x00000001#32 = true := by
  decide

end Sys2Proof.Tests
end

/-! PROOFS. The host's accesses to the status and index registers of 10_state.md: STATUS, PROGRESS and TRIDX, the
writes that are ignored, and the reads that return 0. -/

section
namespace Sys2Proof.Machine

open Sys2Proof

/-! ### The meaning of each access -/

@[simp] theorem exec_rdCmd (s : State) : exec .rdCmd s = .next (answer 0#32 s) := rfl
@[simp] theorem exec_rdStatus (s : State) : exec .rdStatus s = .next (answer (statusWord s) s) := rfl
@[simp] theorem exec_rdProgress (s : State) : exec .rdProgress s = .next (answer (progressWord s) s) := rfl
@[simp] theorem exec_rdTridx (s : State) : exec .rdTridx s = .next (answer s.tridx.toWord s) := rfl

@[simp] theorem exec_wrTridx (w : Word) (s : State) :
    exec (.wrTridx w) s = .next { s with tridx := TrIdx.ofWord w } := rfl

@[simp] theorem exec_wrId (w : Word) (s : State) : exec (.wrId w) s = .next s := rfl
@[simp] theorem exec_wrStatus (w : Word) (s : State) : exec (.wrStatus w) s = .next s := rfl
@[simp] theorem exec_wrProgress (w : Word) (s : State) : exec (.wrProgress w) s = .next s := rfl
@[simp] theorem exec_wrBlkcount (hi : Bool) (w : Word) (s : State) : exec (.wrBlkcount hi w) s = .next s := rfl
@[simp] theorem exec_wrBlkdone (hi : Bool) (w : Word) (s : State) : exec (.wrBlkdone hi w) s = .next s := rfl
@[simp] theorem exec_wrCap (w : Word) (s : State) : exec (.wrCap w) s = .next s := rfl
@[simp] theorem exec_wrHash (k : Fin 8) (w : Word) (s : State) : exec (.wrHash k w) s = .next s := rfl
@[simp] theorem exec_wrTrdata (w : Word) (s : State) : exec (.wrTrdata w) s = .next s := rfl

@[simp] theorem exec_rsv0B (we : Bool) (w : Word) (s : State) :
    exec (.rsv0B we w) s = .next (reservedAccess we s) := rfl
@[simp] theorem exec_rsv0C0F (we : Bool) (low : Fin 4) (w : Word) (s : State) :
    exec (.rsv0C0F we low w) s = .next (reservedAccess we s) := rfl
@[simp] theorem exec_rsv282F (we : Bool) (low : Fin 8) (w : Word) (s : State) :
    exec (.rsv282F we low w) s = .next (reservedAccess we s) := rfl
@[simp] theorem exec_rsv3233 (we : Bool) (low : Fin 2) (w : Word) (s : State) :
    exec (.rsv3233 we low w) s = .next (reservedAccess we s) := rfl
@[simp] theorem exec_rsv3437 (we : Bool) (low : Fin 4) (w : Word) (s : State) :
    exec (.rsv3437 we low w) s = .next (reservedAccess we s) := rfl
@[simp] theorem exec_rsv383F (we : Bool) (low : Fin 8) (w : Word) (s : State) :
    exec (.rsv383F we low w) s = .next (reservedAccess we s) := rfl

@[simp] theorem reservedAccess_write (s : State) : reservedAccess true s = s := rfl
@[simp] theorem reservedAccess_read (s : State) : reservedAccess false s = answer 0#32 s := rfl

/-! ### The fields of STATUS (R43) -/

/-- STATUS bit by bit: the layout of R43, from which each field is read off. -/
theorem statusWord_getLsbD (s : State) (i : Nat) : (statusWord s).getLsbD i =
    if i < 2 then s.phase.code.getLsbD i else if i = 2 then s.traceOn else if i = 3 then trValid s
    else if i < 8 then false else s.err.code.getLsbD (i - 8) := by
  unfold statusWord
  iterate 5 rw [BitVec.getLsbD_append]
  grind

theorem statusWord_state (s : State) : (statusWord s).extractLsb' 0 2 = s.phase.code := by
  ext i hi
  simp [statusWord_getLsbD, hi]

theorem statusWord_traceOn (s : State) : (statusWord s).getLsbD 2 = s.traceOn := by
  rw [statusWord_getLsbD]; rfl

theorem statusWord_trValid (s : State) : (statusWord s).getLsbD 3 = trValid s := by
  rw [statusWord_getLsbD]; rfl

theorem statusWord_reserved_low (s : State) : (statusWord s).extractLsb' 4 4 = 0#4 := by
  ext i hi
  grind [statusWord_getLsbD]

theorem statusWord_err (s : State) : (statusWord s).extractLsb' 8 4 = s.err.code := by
  ext i hi
  grind [statusWord_getLsbD]

/-- Above ERR's four bits STATUS reads 0. -/
theorem statusWord_reserved_high (s : State) : (statusWord s).extractLsb' 12 20 = 0#20 := by
  ext i hi
  grind [statusWord_getLsbD]

theorem statusWord_reset : statusWord State.reset = 0#32 := by decide

/-- Settles O16: each field of the word read is its lemma above. -/
theorem statusRead : Obligations.StatusRead := by
  intro s
  refine ⟨⟨statusWord s, exec_rdStatus s, ?state, statusWord_traceOn s, statusWord_trValid s,
    statusWord_reserved_low s, ?err, statusWord_reserved_high s⟩, fun w => exec_wrStatus w s, ?reset⟩
  case state => rw [statusWord_state]; cases s.phase <;> rfl
  case err => rw [statusWord_err]; cases s.err <;> rfl
  case reset => rw [exec_rdStatus, statusWord_reset]; rfl

/-! ### PROGRESS (R44) -/

theorem progressWord_toNat (s : State) : (progressWord s).toNat = s.mstep.toNat := by
  rw [progressWord, BitVec.toNat_append]; simp

theorem progressWord_reset : progressWord State.reset = 0#32 := by decide

/-- Settles O17: the 25 bits above MSTEP are 0. -/
theorem progressRead : Obligations.ProgressRead := by
  intro s
  refine ⟨⟨progressWord s, exec_rdProgress s, progressWord_toNat s⟩, fun w => exec_wrProgress w s, ?reset⟩
  case reset => rw [exec_rdProgress, progressWord_reset]; rfl

/-! ### TRIDX (R51, R106) -/

/-- TRIDX bit by bit: the layout of format X, with bits [15:12] at 0. -/
theorem TrIdx.toWord_getLsbD (x : TrIdx) (i : Nat) : x.toWord.getLsbD i =
    if i < 6 then x.index.getLsbD i else if i < 8 then x.sect.getLsbD (i - 6)
    else if i < 12 then x.field.getLsbD (i - 8) else if i < 16 then false else x.block.getLsbD (i - 16) := by
  unfold TrIdx.toWord
  iterate 4 rw [BitVec.getLsbD_append]
  grind

/-- The read mask of TRIDX is 1 everywhere but at bits [15:12]. -/
theorem tridxMask_getElem (i : Nat) (h : i < 32) : (0xFFFF0FFF#32)[i] = !decide (12 ≤ i ∧ i < 16) := by
  revert i; decide

/-- Storing a word in TRIDX and reading it back clears bits [15:12], which are not stored. -/
theorem TrIdx.toWord_ofWord (w : Word) : (TrIdx.ofWord w).toWord = w &&& 0xFFFF0FFF#32 := by
  ext i hi
  rw [BitVec.getElem_and, tridxMask_getElem i hi, ← BitVec.getLsbD_eq_getElem hi, TrIdx.toWord_getLsbD]
  grind [TrIdx.ofWord]

theorem tridx_reset : State.reset.tridx.toWord = 0#32 := by decide

/-- Settles O18: the stored index is the word's, field by field, and reads back as the masked word. -/
theorem tridxWriteRead : Obligations.TridxWriteRead := by
  refine ⟨tridx_reset, fun s w => ⟨TrIdx.ofWord w, exec_wrTridx w s, rfl, rfl, rfl, rfl, ?read⟩⟩
  case read => rw [exec_rdTridx, TrIdx.toWord_ofWord]; rfl

/-! ### Ignored writes and reads of 0 (R53, R224) -/

/-- Settles O21: by the meaning of each access, an ignored write answers the state it was given, and a read of CMD or
of a reserved address answers the word 0. -/
theorem ignoredWritesAndReservedReads : Obligations.IgnoredWritesAndReservedReads := by
  intro s w hi k l2 l4 l8
  refine ⟨?writes, ?reads⟩
  case writes => simp
  case reads => simp [answer]

end Sys2Proof.Machine
end

/-! PROOFS. The memory face of the block (20_memory.md): the byte addresses that spell an access, and the byte order of
the words that go in and come out. -/

section
namespace Sys2Proof.Machine

open Sys2Proof

/-! ### The window of byte addresses (R77, R80) -/

/-- The multiples of 4 in the 256 bytes at BASE spell the 64 word addresses, in order. -/
theorem windowAddr_base_add (cfg : Config) {a : Nat} (ha : a < 64) :
    windowAddr cfg (cfg.base + 4 * a) = some (BitVec.ofNat 6 a) := by
  have hword : (cfg.base + 4 * a - cfg.base) / 4 = a := by omega
  rw [windowAddr, if_pos (by omega), hword]

/-- An address the port can carry is BASE plus four times one of the 64 word addresses. -/
theorem eq_base_add_of_windowAddr {cfg : Config} {addr : Nat} {waddr : BitVec 6}
    (h : windowAddr cfg addr = some waddr) : addr = cfg.base + 4 * waddr.toNat := by
  unfold windowAddr at h
  split at h
  case isTrue hin =>
    obtain rfl : BitVec.ofNat 6 ((addr - cfg.base) / 4) = waddr := by simpa using h
    rw [BitVec.toNat_ofNat]
    omega
  case isFalse => cases h

/-- WE stands above the six bits of WADDR (R101). -/
theorem busCode_ofNat (we : Bool) {a : Nat} (ha : a < 64) :
    busCode we (BitVec.ofNat 6 a) = BitVec.ofNat 7 ((if we then 64 else 0) + a) := by
  revert a
  cases we <;> decide

theorem fetch_bus {s : State} {we : Bool} {addr : Nat} {wdata : Word} {rest : List Input}
    (h : s.inputs = .bus we addr wdata :: rest) : fetch s = fetchBus s.cfg we addr wdata := by
  simp [fetch, h]

theorem fetchBus_of_some {cfg : Config} {we : Bool} {addr : Nat} {wdata : Word} {waddr : BitVec 6}
    (h : windowAddr cfg addr = some waddr) :
    fetchBus cfg we addr wdata = .run (decodeBus (busCode we waddr) wdata) := by
  simp [fetchBus, h, fetchCode, decode]

theorem fetchBus_of_none {cfg : Config} {we : Bool} {addr : Nat} {wdata : Word}
    (h : windowAddr cfg addr = none) : fetchBus cfg we addr wdata = .refuse (.noSuchAccess addr) := by
  simp [fetchBus, h]

theorem step_of_refuse {s : State} {r : Refusal} (h : fetch s = .refuse r) : step s = .refused r := by
  simp [step, h]

theorem consume_of_inputs {s : State} {e : Input} {rest : List Input} (h : s.inputs = e :: rest) :
    consume s = { s with inputs := rest } := by
  simp [consume, h]

/-- Settles O12: an address of the window is fetched as its word address, and one that is not in it, by
`eq_base_add_of_windowAddr`, has no word address and is refused. -/
theorem busAddressWindow : Obligations.BusAddressWindow := by
  intro s we addr wdata rest hin
  refine ⟨?carried, ?refused⟩
  case carried =>
    rintro a ha rfl
    have hrun := fetchBus_of_some (we := we) (wdata := wdata) (windowAddr_base_add s.cfg ha)
    rw [step_of_run ((fetch_bus hin).trans hrun), busCode_ofNat we ha, consume_of_inputs hin]
  case refused =>
    intro hout
    have hnone : windowAddr s.cfg addr = none :=
      Option.eq_none_iff_forall_ne_some.mpr fun waddr h => hout waddr.toNat waddr.isLt (eq_base_add_of_windowAddr h)
    exact step_of_refuse ((fetch_bus hin).trans (fetchBus_of_none hnone))

/-! ### Big-endian words (R72, R284, R286) -/

/-- Each byte appended below shifts the value up by 8 bits. -/
theorem append_byte_toNat {w : Nat} (x : BitVec w) (b : Byte) : (x ++ b).toNat = x.toNat * 2 ^ 8 + b.toNat := by
  rw [BitVec.toNat_append, ← Nat.shiftLeft_add_eq_or_of_lt b.isLt, Nat.shiftLeft_eq]

theorem packWord_toNat (bytes : List Byte) (t : Nat) :
    (packWord bytes t).toNat = (bytes.getD (4 * t) 0#8).toNat * 2 ^ 24 + (bytes.getD (4 * t + 1) 0#8).toNat * 2 ^ 16 +
      (bytes.getD (4 * t + 2) 0#8).toNat * 2 ^ 8 + (bytes.getD (4 * t + 3) 0#8).toNat := by
  simp only [packWord, append_byte_toNat]
  ring

theorem pack_getElem (bytes : List Byte) (t : Fin 16) : (pack bytes)[t] = packWord bytes t := by
  fin_cases t <;> rfl

@[simp] theorem length_be32 (w : Word) : (be32 w).length = 4 := rfl

theorem be32_getElem? (w : Word) (j : Fin 4) : (be32 w)[j.val]? = some (w.extractLsb' (8 * (3 - j.val)) 8) := by
  fin_cases j <;> rfl

/-- Pieces of one length k laid end to end: position k n + j is position j of piece n. -/
theorem getElem?_flatMap_of_length {α β : Type} {f : α → List β} {k : Nat} (hf : ∀ x, (f x).length = k) {j : Nat}
    (hj : j < k) (xs : List α) (n : Nat) : (xs.flatMap f)[k * n + j]? = xs[n]?.bind fun x => (f x)[j]? := by
  induction xs generalizing n with
  | nil => simp
  | cons x xs ih =>
    cases n with
    | zero => simp [List.getElem?_append, hf, hj]
    | succ n =>
      have hpos : k * (n + 1) + j = (f x).length + (k * n + j) := by rw [hf]; ring
      simp [hpos, List.getElem?_append_right, ih]

theorem length_serialise (hash : Vector Word 8) : (serialise hash).length = 32 := by
  simp [serialise, List.length_flatMap]

/-- Byte j of word n, the most significant byte first. -/
theorem serialise_getElem? (hash : Vector Word 8) (n : Fin 8) (j : Fin 4) :
    (serialise hash)[4 * n.val + j.val]? = some (hash[n].extractLsb' (8 * (3 - j.val)) 8) := by
  rw [serialise, getElem?_flatMap_of_length length_be32 j.isLt]
  simp [be32_getElem?]

/-- Settles O51: word by word for Pack, byte by byte for Serialise. -/
theorem packAndSerialise : Obligations.PackAndSerialise := by
  refine ⟨?pack, fun hash => ⟨length_serialise hash, ?serialise⟩⟩
  case pack =>
    intro bytes t hlen
    have hread : ∀ j < 4, bytes[4 * t.val + j]? = some (bytes.getD (4 * t.val + j) 0#8) := fun j hj => by
      rw [List.getD_eq_getElem _ _ (by omega), List.getElem?_eq_getElem]
    exact ⟨_, _, _, _, hread 0 (by decide), hread 1 (by decide), hread 2 (by decide), hread 3 (by decide),
      by rw [pack_getElem]; exact packWord_toNat bytes t⟩
  case serialise =>
    intro n j
    exact ⟨_, serialise_getElem? hash n j, by rw [BitVec.extractLsb'_toNat, Nat.shiftRight_eq_div_pow]⟩

end Sys2Proof.Machine
end

/-! PROOFS. Command words (30_encoding.md R103, R104): the fields that make a word legal, the five words that have them,
and what a write of any other word does. -/

section
namespace Sys2Proof.Machine

open Sys2Proof

/-! ### The fields of format C (R103) -/

theorem cmdOp_eq_toNat (w : Word) : cmdOp w = (w.extractLsb' 0 4).toNat := by
  simp [cmdOp, BitVec.extractLsb'_toNat]

theorem cmdTrace_eq_getLsbD (w : Word) : cmdTrace w = (w.extractLsb' 4 1).getLsbD 0 := by
  simp [cmdTrace]

/-- OP, TRACE and RSV are all of a command word. -/
theorem eq_of_cmdFields_eq {w v : Word} (hop : cmdOp w = cmdOp v) (htrace : cmdTrace w = cmdTrace v)
    (hrsv : cmdRsv w = cmdRsv v) : w = v := by
  rw [cmdOp_eq_toNat, cmdOp_eq_toNat] at hop
  have hlow : w.extractLsb' 0 4 = v.extractLsb' 0 4 := BitVec.eq_of_toNat_eq hop
  ext i hi
  rcases lt_trichotomy i 4 with h | rfl | h
  · simpa [h, BitVec.getLsbD_eq_getElem hi] using congrArg (·.getLsbD i) hlow
  · simpa [cmdTrace] using htrace
  · have hbit := congrArg (·.getLsbD (i - 5)) hrsv
    simpa [cmdRsv, show i - 5 < 27 by omega, show 5 + (i - 5) = i by omega, BitVec.getLsbD_eq_getElem hi] using hbit

/-! ### Legality (R104) -/

/-- The three conditions of R104 on OP, RSV and TRACE. -/
def CommandLegal (w : Word) : Prop :=
  (w.extractLsb' 0 4 = 0x0#4 ∨ w.extractLsb' 0 4 = 0x1#4 ∨ w.extractLsb' 0 4 = 0x2#4 ∨ w.extractLsb' 0 4 = 0xF#4) ∧
    w.extractLsb' 5 27 = 0#27 ∧ (w.extractLsb' 4 1 = 0#1 ∨ w.extractLsb' 0 4 = 0x1#4)

/-- The decoder gives a command to a word that meets the conditions: with OP 0x1 TRACE chooses between the two STARTs,
with any other OP it is 0. -/
theorem CommandLegal.decodeCommand_ne_illegal {w : Word} (h : CommandLegal w) : decodeCommand w ≠ .illegal := by
  obtain ⟨hop, (hrsv : cmdRsv w = 0#27), htrace⟩ := h
  rcases htrace with htrace | hstart
  · have htrace : cmdTrace w = false := by rw [cmdTrace_eq_getLsbD, htrace]; rfl
    rcases hop with hop | hop | hop | hop <;> simp [decodeCommand, cmdOp_eq_toNat, hop, hrsv, htrace]
  · cases htrace : cmdTrace w <;> simp [decodeCommand, cmdOp_eq_toNat, hstart, hrsv, htrace]

/-- A command from the decoder fixes all three fields, and so the word. -/
theorem mem_legalCommandWords_of_decodeCommand_ne_illegal {w : Word} (h : decodeCommand w ≠ .illegal) :
    w ∈ legalCommandWords := by
  have of_fields {v : Word} (hv : v ∈ legalCommandWords) (hrsv : cmdRsv w = cmdRsv v)
      (hlow : cmdOp w = cmdOp v ∧ cmdTrace w = cmdTrace v) : w ∈ legalCommandWords :=
    eq_of_cmdFields_eq hlow.1 hlow.2 hrsv ▸ hv
  have hrsv : cmdRsv w = 0#27 := by
    by_contra hne
    exact h (if_pos hne)
  rw [decodeCommand, if_neg (not_not.mpr hrsv)] at h
  split_ifs at h with hnop hstart hstartT hblock hsreset
  · exact of_fields (v := 0x00000000#32) (by decide) hrsv hnop
  · exact of_fields (v := 0x00000001#32) (by decide) hrsv hstart
  · exact of_fields (v := 0x00000011#32) (by decide) hrsv hstartT
  · exact of_fields (v := 0x00000002#32) (by decide) hrsv hblock
  · exact of_fields (v := 0x0000000F#32) (by decide) hrsv hsreset
  · exact absurd rfl h

theorem commandLegal_of_mem : ∀ w ∈ legalCommandWords, CommandLegal w := by
  simp [legalCommandWords, CommandLegal]

theorem commandLegal_iff_mem (w : Word) : CommandLegal w ↔ w ∈ legalCommandWords :=
  ⟨fun h => mem_legalCommandWords_of_decodeCommand_ne_illegal h.decodeCommand_ne_illegal, commandLegal_of_mem w⟩

theorem decodeCommand_eq_illegal_iff (w : Word) : decodeCommand w = .illegal ↔ ¬ CommandLegal w := by
  rw [iff_not_comm]
  exact ⟨CommandLegal.decodeCommand_ne_illegal, fun h =>
    (commandLegal_iff_mem w).mpr (mem_legalCommandWords_of_decodeCommand_ne_illegal h)⟩

/-! ### Writes of an illegal word (R104, R219) -/

theorem decodeCmd_of_not_commandLegal {w : Word} (h : ¬ CommandLegal w) : decodeCmd w = .illegalCmd w := by
  rw [decodeCmd, (decodeCommand_eq_illegal_iff w).mpr h]

theorem exec_wrCmd (w : Word) (s : State) : exec (.wrCmd w) s = exec (decodeCmd w) s := execWrCmd_eq w s

@[simp] theorem exec_illegalCmd (w : Word) (s : State) :
    exec (.illegalCmd w) s = .next { s with err := .illegalCmd } := rfl

/-- Settles O5: the conditions hold of the five words only, by `commandLegal_iff_mem`, and every other word is
decoded as ILLEGAL_CMD. -/
theorem commandWordLegality : Obligations.CommandWordLegality := by
  intro w s
  refine ⟨commandLegal_iff_mem w, ?nop, ?start, ?startT, ?block, ?sreset, ?illegal⟩
  case illegal =>
    intro h
    have hdecode : decodeCmd w = .illegalCmd w := decodeCmd_of_not_commandLegal h
    exact ⟨congrArg Except.ok hdecode, by rw [exec_wrCmd, hdecode, exec_illegalCmd]⟩
  all_goals (rintro rfl; rfl)

end Sys2Proof.Machine
end

/-! PROOFS. The ALU (40_alu.md): what each function of format F drives on the output lines, bit by bit, and the exact
sum of ADD32. -/

section
namespace Sys2Proof.Machine

open Sys2Proof

/-! ### The meaning of each row of format F (R129)

Every row drives the value of its function and changes nothing else. -/

@[simp] theorem exec_add32 (x1 x2 x3 x4 x5 : Word) (s : State) :
    exec (.add32 x1 x2 x3 x4 x5) s = .next { s with aluOut := add32 [x1, x2, x3, x4, x5] } := rfl
@[simp] theorem exec_rotr (x : Word) (n : Fin 32) (s : State) :
    exec (.rotr x n) s = .next { s with aluOut := rotr x n } := rfl
@[simp] theorem exec_shr (x : Word) (n : Fin 32) (s : State) :
    exec (.shr x n) s = .next { s with aluOut := shr x n } := rfl
@[simp] theorem exec_xor32 (x y z : Word) (s : State) :
    exec (.xor32 x y z) s = .next { s with aluOut := xor32 [x, y, z] } := rfl
@[simp] theorem exec_and32 (x y : Word) (s : State) :
    exec (.and32 x y) s = .next { s with aluOut := and32 x y } := rfl
@[simp] theorem exec_not32 (x : Word) (s : State) : exec (.not32 x) s = .next { s with aluOut := not32 x } := rfl
@[simp] theorem exec_ch (x y z : Word) (s : State) : exec (.ch x y z) s = .next { s with aluOut := ch x y z } := rfl
@[simp] theorem exec_maj (x y z : Word) (s : State) : exec (.maj x y z) s = .next { s with aluOut := maj x y z } := rfl
@[simp] theorem exec_bsig0 (x : Word) (s : State) : exec (.bsig0 x) s = .next { s with aluOut := bsig0 x } := rfl
@[simp] theorem exec_bsig1 (x : Word) (s : State) : exec (.bsig1 x) s = .next { s with aluOut := bsig1 x } := rfl
@[simp] theorem exec_ssig0 (x : Word) (s : State) : exec (.ssig0 x) s = .next { s with aluOut := ssig0 x } := rfl
@[simp] theorem exec_ssig1 (x : Word) (s : State) : exec (.ssig1 x) s = .next { s with aluOut := ssig1 x } := rfl

/-- Settles O43: the row drives `add32` of its five wires, which is the exact sum truncated once. -/
theorem addResult : Obligations.AddResult := by
  intro s x1 x2 x3 x4 x5
  refine ⟨_, exec_add32 x1 x2 x3 x4 x5 s, ?sum⟩
  case sum =>
    rw [add32_toNat]
    simp [Nat.add_assoc]

/-! ### Rotate and shift (R132, R133) -/

/-- ROTR is the library's rotation. -/
theorem rotr_eq_rotateRight (x : Word) (n : Fin 32) : rotr x n = x.rotateRight n.val := by
  rw [rotr, BitVec.rotateRight, BitVec.rotateRightAux, Nat.mod_eq_of_lt n.isLt]

theorem rotr_getLsbD (x : Word) (n : Fin 32) {j : Nat} (hj : j < 32) :
    (rotr x n).getLsbD j = x.getLsbD ((j + n.val) % 32) := by
  rw [rotr_eq_rotateRight, BitVec.getLsbD_rotateRight, Nat.mod_eq_of_lt n.isLt]
  by_cases hin : j < 32 - n.val
  · have hpos : (j + n.val) % 32 = n.val + j := by omega
    simp [hin, hpos]
  · have hwrap : (j + n.val) % 32 = j - (32 - n.val) := by omega
    simp [hin, hj, hwrap]

/-- SHR brings in 0 from above bit 31. -/
theorem shr_getLsbD (x : Word) (n : Fin 32) (j : Nat) :
    (shr x n).getLsbD j = (decide (j + n.val < 32) && x.getLsbD (j + n.val)) := by
  rw [shr, BitVec.getLsbD_ushiftRight, Nat.add_comm]
  by_cases hin : j + n.val < 32
  · simp [hin]
  · have hout : x.getLsbD (j + n.val) = false := BitVec.getLsbD_of_ge x _ (Nat.le_of_not_lt hin)
    simp [hout]

theorem shr_toNat (x : Word) (n : Fin 32) : (shr x n).toNat = x.toNat / 2 ^ n.val := by
  rw [shr, BitVec.toNat_ushiftRight, Nat.shiftRight_eq_div_pow]

/-- Settles O44: bit by bit for ROTR, by value for SHR. -/
theorem rotateAndShiftResult : Obligations.RotateAndShiftResult := fun s x n =>
  ⟨⟨_, exec_rotr x n s, fun _ hj => rotr_getLsbD x n hj⟩, ⟨_, exec_shr x n s, shr_toNat x n⟩⟩

/-! ### The bitwise functions (R134 to R138) -/

theorem xor32_three_getLsbD (x y z : Word) (j : Nat) :
    (xor32 [x, y, z]).getLsbD j = ((x.getLsbD j ^^ y.getLsbD j) ^^ z.getLsbD j) := by
  rw [xor32_three, BitVec.getLsbD_xor, BitVec.getLsbD_xor]

@[simp] theorem and32_getLsbD (x y : Word) (j : Nat) : (and32 x y).getLsbD j = (x.getLsbD j && y.getLsbD j) :=
  BitVec.getLsbD_and

theorem not32_getLsbD (x : Word) {j : Nat} (hj : j < 32) : (not32 x).getLsbD j = !x.getLsbD j := by
  simp [hj]

/-- CH chooses: one of its two products is 0 at each bit. -/
theorem ch_getLsbD (x y z : Word) {j : Nat} (hj : j < 32) :
    (ch x y z).getLsbD j = if x.getLsbD j then y.getLsbD j else z.getLsbD j := by
  rw [ch, xor32_two, BitVec.getLsbD_xor, and32_getLsbD, and32_getLsbD, not32_getLsbD x hj]
  cases x.getLsbD j <;> simp

/-- The exclusive or of the three pairwise products is the majority. -/
theorem xor_pairs_eq_majority : ∀ a b c : Bool,
    (((a && b) ^^ (a && c)) ^^ (b && c)) = decide (2 ≤ a.toNat + b.toNat + c.toNat) := by
  decide

theorem maj_getLsbD (x y z : Word) (j : Nat) : (maj x y z).getLsbD j =
    decide (2 ≤ (x.getLsbD j).toNat + (y.getLsbD j).toNat + (z.getLsbD j).toNat) := by
  rw [maj, xor32_three_getLsbD, and32_getLsbD, and32_getLsbD, and32_getLsbD, xor_pairs_eq_majority]

/-- Settles O45: each row drives its function, and the function's bits are its lemma above. -/
theorem bitwiseResult : Obligations.BitwiseResult := by
  intro s x y z
  refine ⟨⟨_, exec_xor32 x y z s, ?xor⟩, ⟨_, exec_and32 x y s, ?and⟩, ⟨_, exec_not32 x s, ?not⟩,
    ⟨_, exec_ch x y z s, ?ch⟩, ⟨_, exec_maj x y z s, ?maj⟩⟩
  case xor => exact fun j _ => xor32_three_getLsbD x y z j
  case and => exact fun j _ => and32_getLsbD x y j
  case not => exact fun _ hj => not32_getLsbD x hj
  case ch => exact fun _ hj => ch_getLsbD x y z hj
  case maj => exact fun j _ => maj_getLsbD x y z j

/-! ### The sigma functions (R139 to R142) -/

/-- The shape of BSIG0 and BSIG1: three rotations. -/
theorem xor32_rotr_rotr_rotr_getLsbD (x : Word) (a b c : Fin 32) {j : Nat} (hj : j < 32) :
    (xor32 [rotr x a, rotr x b, rotr x c]).getLsbD j =
      ((x.getLsbD ((j + a.val) % 32) ^^ x.getLsbD ((j + b.val) % 32)) ^^ x.getLsbD ((j + c.val) % 32)) := by
  rw [xor32_three_getLsbD, rotr_getLsbD x a hj, rotr_getLsbD x b hj, rotr_getLsbD x c hj]

/-- The shape of SSIG0 and SSIG1: two rotations and a shift. -/
theorem xor32_rotr_rotr_shr_getLsbD (x : Word) (a b c : Fin 32) {j : Nat} (hj : j < 32) :
    (xor32 [rotr x a, rotr x b, shr x c]).getLsbD j = ((x.getLsbD ((j + a.val) % 32) ^^ x.getLsbD ((j + b.val) % 32)) ^^
      (decide (j + c.val < 32) && x.getLsbD (j + c.val))) := by
  rw [xor32_three_getLsbD, rotr_getLsbD x a hj, rotr_getLsbD x b hj, shr_getLsbD]

/-- Settles O46: each sigma function has one of the two shapes above, at its own three amounts. -/
theorem sigmaResult : Obligations.SigmaResult := by
  intro s x rot
  refine ⟨⟨_, exec_bsig0 x s, ?bsig0⟩, ⟨_, exec_bsig1 x s, ?bsig1⟩, ⟨_, exec_ssig0 x s, ?ssig0⟩,
    ⟨_, exec_ssig1 x s, ?ssig1⟩⟩
  case bsig0 => exact fun _ hj => xor32_rotr_rotr_rotr_getLsbD x 2 13 22 hj
  case bsig1 => exact fun _ hj => xor32_rotr_rotr_rotr_getLsbD x 6 11 25 hj
  case ssig0 => exact fun _ hj => xor32_rotr_rotr_shr_getLsbD x 7 18 3 hj
  case ssig1 => exact fun _ hj => xor32_rotr_rotr_shr_getLsbD x 17 19 10 hj

end Sys2Proof.Machine
end

/-! PROOFS. The message schedule expander (41_schedule.md): what LOAD and EXPAND do to the schedule file and to the
trace, and the recurrence that the schedule of a block satisfies. -/

section
namespace Sys2Proof.Machine

open Sys2Proof

/-! ### The meaning of LOAD and EXPAND

Both record in the trace storage only, so the state after them is the state before with the named fields replaced. -/

theorem exec_load (s : State) : exec .load s = .next { s with
    w := loadSchedule s.blk s.w, v := s.hash, mstep := 1#7, trace := (record (loadEntries s.blk) s).trace } := by
  change execLoad s = _
  rw [execLoad, record_eq]

theorem exec_expand (idx : Fin 48) (s : State) : exec (.expand idx) s = .next { s with
    w := s.w.set (idx.val + 16) (expandWord s.w idx), mstep := s.mstep + 1#7
    trace := (record [(.sched (Fin.ofNat 64 (idx.val + 16)), expandWord s.w idx)] s).trace } := by
  have hplace : Fin.ofNat 64 (idx.val + 16) = ⟨idx.val + 16, by omega⟩ := Fin.ext (Nat.mod_eq_of_lt (by omega))
  rw [hplace]
  change execExpand idx s = _
  rw [execExpand, record_eq]

/-! ### The words LOAD copies (R161) -/

theorem mem_blockIndices : ∀ t : Fin 16, t ∈ blockIndices := by decide

/-- Every listed word is copied, whatever was copied before it. -/
theorem getElem_foldl_set_of_mem (blk : Vector Word 16) (w : Vector Word 64) {ts : List (Fin 16)} {t : Fin 16}
    (ht : t ∈ ts) : (ts.foldl (fun w t => w.set t.val blk[t]) w)[t.val] = blk[t] := by
  induction ts using List.reverseRecOn with
  | nil => cases ht
  | append_singleton ts last ih =>
    rw [List.foldl_concat, Vector.getElem_set]
    by_cases hlast : last = t
    · simp [hlast]
    · have hmem : t ∈ ts := by simpa [Ne.symm hlast] using ht
      rw [if_neg (Fin.val_ne_of_ne hlast), ih hmem]

/-- The words from the 16th on have no source in a block. -/
theorem getElem_foldl_set_of_le (blk : Vector Word 16) (w : Vector Word 64) (ts : List (Fin 16)) {t : Fin 64}
    (ht : 16 ≤ t.val) : (ts.foldl (fun w t => w.set t.val blk[t]) w)[t] = w[t] := by
  induction ts using List.reverseRecOn with
  | nil => rfl
  | append_singleton ts last ih =>
    have hlast : last.val ≠ t.val := by omega
    rw [List.foldl_concat, Fin.getElem_fin, Vector.getElem_set, if_neg hlast]
    exact ih

theorem loadSchedule_low (blk : Vector Word 16) (w : Vector Word 64) (t : Fin 16) :
    (loadSchedule blk w)[t.val] = blk[t] :=
  getElem_foldl_set_of_mem blk w (mem_blockIndices t)

theorem loadSchedule_high (blk : Vector Word 16) (w : Vector Word 64) {t : Fin 64} (ht : 16 ≤ t.val) :
    (loadSchedule blk w)[t] = w[t] :=
  getElem_foldl_set_of_le blk w blockIndices ht

/-! ### The entries LOAD records (R161) -/

theorem mem_loadEntries (blk : Vector Word 16) (e : TraceAddr × Word) : e ∈ loadEntries blk ↔
    ∃ t : Fin 16, e = (.initial t, blk[t]) ∨ e = (.sched (t.castLE (by decide)), blk[t]) := by
  simp [loadEntries, mem_blockIndices]

/-- Which entries LOAD writes does not depend on the block. -/
theorem map_fst_loadEntries (blk : Vector Word 16) : (loadEntries blk).map Prod.fst =
    blockIndices.flatMap fun t => [.initial t, .sched (t.castLE (by decide))] := by
  simp [loadEntries, List.map_flatMap]

/-- LOAD writes no entry twice. -/
theorem loadEntries_nodup (blk : Vector Word 16) : ((loadEntries blk).map Prod.fst).Nodup := by
  rw [map_fst_loadEntries]
  decide

/-- Settles O32: the words by the two lemmas on `loadSchedule`, the trace by the entries LOAD lists. -/
theorem loadResult : Obligations.LoadResult := by
  intro s
  refine ⟨_, _, exec_load s, loadSchedule_low s.blk s.w, fun t => loadSchedule_high s.blk s.w, ?untraced, ?traced⟩
  case untraced => exact fun hoff => by rw [record_untraced _ s hoff]
  case traced =>
    intro hon hcap hwf
    have hlisted {a : TraceAddr} {x : Word} := record_read_listed (a := a) (x := x) _ hon hcap hwf
      (loadEntries_nodup s.blk)
    refine ⟨fun t => hlisted ?initial, fun t ht => hlisted ?sched, fun b a hother => record_read_other _ s ?other⟩
    case initial => exact (mem_loadEntries _ _).mpr ⟨t, .inl rfl⟩
    case sched => exact (mem_loadEntries _ _).mpr ⟨⟨t.val, ht⟩, .inr rfl⟩
    case other =>
      refine hother.imp id fun ⟨hinitial, hsched⟩ e he hea => ?_
      obtain ⟨t, rfl | rfl⟩ := (mem_loadEntries _ _).mp he
      · exact hinitial t hea.symm
      · exact hsched _ t.isLt hea.symm

/-! ### EXPAND (R162) -/

theorem expandWord_toNat (w : Vector Word 64) (idx : Fin 48) : (expandWord w idx).toNat =
    ((ssig1 w[idx.val + 14]).toNat + w[idx.val + 9].toNat + (ssig0 w[idx.val + 1]).toNat + w[idx.val].toNat)
      % 2 ^ 32 := by
  rw [expandWord, add32_toNat]
  simp [Nat.add_assoc]

/-- Recording one entry writes that entry of the current block and no other. -/
theorem record_singleton_read {s : State} (hon : s.traceOn = true) (hcap : s.blkdone.toNat < s.cfg.traceCap)
    (hwf : Trace.wf s.trace = true) (a : TraceAddr) (x : Word) (b : Nat) (a' : TraceAddr) :
    Trace.read (record [(a, x)] s).trace b a' =
      if b = s.blkdone.toNat ∧ a' = a then x else Trace.read s.trace b a' := by
  split_ifs with hsel
  · obtain ⟨rfl, rfl⟩ := hsel
    exact record_read_listed [_] hon hcap hwf (List.nodup_singleton _) (List.mem_singleton_self _)
  · refine record_read_other _ s ?_
    rw [not_and_or] at hsel
    exact hsel.imp id fun ha e he => by rw [List.mem_singleton.mp he]; exact Ne.symm ha

/-- Settles O33: one word of the file and one entry of the trace are written, both with `expandWord`. -/
theorem expandResult : Obligations.ExpandResult := by
  intro s idx
  refine ⟨_, _, _, exec_expand idx s, expandWord_toNat s.w idx, ?words, ?untraced, ?traced⟩
  case words =>
    intro t
    rw [Fin.getElem_fin, Vector.getElem_set]
    simp [eq_comm]
  case untraced => exact fun hoff => by rw [record_untraced _ s hoff]
  case traced => exact fun hon hcap hwf => record_singleton_read hon hcap hwf _ _

/-! ### The schedule of a block (R160)

`extendSchedule` holds the schedule newest word first, so what it has built at some time is a suffix of what it ends
with. -/

/-- The word that `extendSchedule` adds to a schedule held newest word first. -/
def nextScheduleWord (ws : List Word) : Word :=
  add32 [ssig1 (ws.getD 1 0#32), ws.getD 6 0#32, ssig0 (ws.getD 14 0#32), ws.getD 15 0#32]

theorem extendSchedule_succ (n : Nat) (ws : List Word) :
    extendSchedule (n + 1) ws = extendSchedule n (nextScheduleWord ws :: ws) := rfl

theorem nextScheduleWord_toNat (ws : List Word) : (nextScheduleWord ws).toNat = ((ssig1 (ws.getD 1 0#32)).toNat +
    (ws.getD 6 0#32).toNat + (ssig0 (ws.getD 14 0#32)).toNat + (ws.getD 15 0#32).toNat) % 2 ^ 32 := by
  rw [nextScheduleWord, add32_toNat]
  simp [Nat.add_assoc]

theorem length_extendSchedule (n : Nat) (ws : List Word) : (extendSchedule n ws).length = ws.length + n := by
  induction n generalizing ws with
  | zero => rfl
  | succ n ih => rw [extendSchedule_succ, ih, List.length_cons]; omega

theorem suffix_extendSchedule (n : Nat) (ws : List Word) : ws <:+ extendSchedule n ws := by
  induction n generalizing ws with
  | zero => exact List.suffix_rfl
  | succ n ih => exact (List.suffix_cons _ ws).trans (ih _)

/-- Each word added stands before the schedule it was computed from. -/
theorem exists_next_suffix_extendSchedule {m n : Nat} (hmn : m < n) (ws : List Word) :
    ∃ us, us.length = ws.length + m ∧ nextScheduleWord us :: us <:+ extendSchedule n ws := by
  induction n generalizing m ws with
  | zero => omega
  | succ n ih =>
    cases m with
    | zero => exact ⟨ws, rfl, suffix_extendSchedule n _⟩
    | succ m =>
      obtain ⟨us, hlen, hsuffix⟩ := ih (Nat.lt_of_succ_lt_succ hmn) (nextScheduleWord ws :: ws)
      exact ⟨us, by rw [hlen, List.length_cons]; omega, hsuffix⟩

theorem length_schedOf (blk : Vector Word 16) : (schedOf blk).length = 64 := by
  simp [schedOf, length_extendSchedule]

/-- A schedule built on the way is the beginning of Sched(B), in reverse order. -/
theorem schedOf_getElem?_of_suffix {blk : Vector Word 16} {us : List Word}
    (h : us <:+ extendSchedule 48 blk.toList.reverse) {k : Nat} (hk : k < us.length) :
    (schedOf blk)[us.length - 1 - k]? = us[k]? := by
  have hprefix : us.reverse <+: schedOf blk := List.reverse_prefix.mpr h
  have hpos : us.length - 1 - (us.length - 1 - k) = k := by omega
  rw [List.prefix_iff_getElem?.mp hprefix _ (by rw [List.length_reverse]; omega), ← List.getElem?_eq_getElem,
    List.getElem?_reverse (by omega), hpos]

theorem schedOf_getElem?_low (blk : Vector Word 16) (t : Fin 16) : (schedOf blk)[t.val]? = some blk[t] := by
  have hk : 15 - t.val < blk.toList.length := by simp; omega
  have hpos : 15 - (15 - t.val) = t.val := by omega
  have hread := schedOf_getElem?_of_suffix (suffix_extendSchedule 48 blk.toList.reverse) (by simpa using hk)
  simpa [hpos, List.getElem?_reverse hk] using hread

/-- Settles O49: word t was computed from the t words before it, which lie in Sched(B) where they lay then. -/
theorem scheduleRecurrence : Obligations.ScheduleRecurrence := by
  intro blk
  refine ⟨length_schedOf blk, schedOf_getElem?_low blk, fun t hlow hhigh => ?_⟩
  have hadded : t - 16 < 48 := by omega
  obtain ⟨us, hlen, hsuffix⟩ := exists_next_suffix_extendSchedule hadded blk.toList.reverse
  have hlen : us.length = t := by rw [hlen, List.length_reverse, Vector.length_toList]; omega
  have hnext : (schedOf blk)[t]? = some (nextScheduleWord us) := by
    simpa [hlen] using schedOf_getElem?_of_suffix hsuffix (k := 0) (by simp)
  have hback : ∀ k < 16, (schedOf blk)[t - (k + 1)]? = some (us.getD k 0#32) := fun k hk => by
    rw [List.getD_eq_getElem _ _ (by omega), ← List.getElem?_eq_getElem]
    simpa [hlen] using schedOf_getElem?_of_suffix hsuffix (k := k + 1) (by simp; omega)
  exact ⟨_, _, _, _, _, hnext, hback 1 (by decide), hback 6 (by decide), hback 14 (by decide), hback 15 (by decide),
    nextScheduleWord_toNat us⟩

end Sys2Proof.Machine
end

/-! PROOFS. The compression pipeline (42_compress.md): what ROUND does to the working registers and to the trace, and
what FEEDFWD does to HASH. -/

section
namespace Sys2Proof.Machine

open Sys2Proof

/-! ### The meaning of ROUND and FEEDFWD -/

/-- The registers after ROUND i in state `s` (R181). -/
def roundRegsOf (i : Fin 64) (s : State) : Vector Word 8 :=
  roundRegs s.v (roundT1 s.v (k i) s.w[i]) (roundT2 s.v)

/-- The trace entries of ROUND i in state `s` (R181). -/
def roundEntriesOf (i : Fin 64) (s : State) : List (TraceAddr × Word) :=
  roundEntries i (roundRegsOf i s) (roundT1 s.v (k i) s.w[i]) (roundT2 s.v) s.w[i]

theorem exec_round (i : Fin 64) (s : State) : exec (.round i) s = .next { s with
    v := roundRegsOf i s, t1 := roundT1 s.v (k i) s.w[i], t2 := roundT2 s.v, mstep := s.mstep + 1#7
    trace := (record (roundEntriesOf i s) s).trace } := by
  change Host.Outcome.next { record (roundEntriesOf i s) s with
    v := roundRegsOf i s, t1 := roundT1 s.v (k i) s.w[i], t2 := roundT2 s.v, mstep := s.mstep + 1#7 } = _
  rw [record_eq]

theorem exec_feedfwd (s : State) : exec .feedfwd s = .next { s with
    hash := feedForward s.hash s.v, blkdone := s.blkdone + 1#64, mstep := 0#7
    phase := if s.blkdone + 1#64 = s.blkcount then .done else .ready } := rfl

/-! ### The sums of a round (R181) -/

theorem add32_two_toNat (x y : Word) : (add32 [x, y]).toNat = (x.toNat + y.toNat) % 2 ^ 32 := by
  rw [add32_two, BitVec.toNat_add]

theorem roundT1_toNat (v : Vector Word 8) (ki wi : Word) : (roundT1 v ki wi).toNat =
    (v[7].toNat + (bsig1 v[4]).toNat + (ch v[4] v[5] v[6]).toNat + ki.toNat + wi.toNat) % 2 ^ 32 := by
  rw [roundT1, add32_toNat]
  simp [Nat.add_assoc]

theorem roundT2_toNat (v : Vector Word 8) :
    (roundT2 v).toNat = ((bsig0 v[0]).toNat + (maj v[0] v[1] v[2]).toNat) % 2 ^ 32 :=
  add32_two_toNat _ _

/-! ### The entries ROUND records (R181, 44_trace.md R255) -/

/-- The thirteen fields of RoundState i, in the order of their numbers. -/
def roundState (i : Fin 64) (v : Vector Word 8) (t1 t2 wi : Word) : Vector Word 13 :=
  #v[v[0], v[1], v[2], v[3], v[4], v[5], v[6], v[7], t1, t2, k i, wi, BitVec.ofNat 32 i.val]

/-- ROUND i writes field f of its RoundState as entry `.round i f`, for every f. -/
theorem roundEntries_eq_ofFn (i : Fin 64) (v : Vector Word 8) (t1 t2 wi : Word) :
    roundEntries i v t1 t2 wi = List.ofFn fun f : Fin 13 => (.round i f, (roundState i v t1 t2 wi)[f]) := rfl

theorem mem_roundEntries (i : Fin 64) (v : Vector Word 8) (t1 t2 wi : Word) (e : TraceAddr × Word) :
    e ∈ roundEntries i v t1 t2 wi ↔ ∃ f, (.round i f, (roundState i v t1 t2 wi)[f]) = e := by
  rw [roundEntries_eq_ofFn, List.mem_ofFn]

/-- ROUND writes no entry twice. -/
theorem roundEntries_nodup (i : Fin 64) (v : Vector Word 8) (t1 t2 wi : Word) :
    ((roundEntries i v t1 t2 wi).map Prod.fst).Nodup := by
  rw [roundEntries_eq_ofFn, List.map_ofFn, List.nodup_ofFn]
  exact fun f g h => (TraceAddr.round.inj h).2

/-- Settles O34: the sums are those of ADD32, and the trace holds the thirteen entries that ROUND lists. -/
theorem roundResult : Obligations.RoundResult := by
  intro s i
  refine ⟨_, _, _, _, exec_round i s, roundT1_toNat .., roundT2_toNat .., add32_two_toNat _ _, rfl, rfl, rfl,
    add32_two_toNat _ _, rfl, rfl, rfl, ?untraced, ?traced⟩
  case untraced => exact fun hoff => by rw [record_untraced _ s hoff]
  case traced =>
    refine fun hon hcap hwf => ⟨fun f => ?field, fun b a hother => record_read_other _ s ?other⟩
    case field =>
      rw [record_read_listed (roundEntriesOf i s) hon hcap hwf (roundEntries_nodup ..)
        ((mem_roundEntries ..).mpr ⟨f, rfl⟩)]
      exact (List.getElem?_eq_getElem f.isLt).symm
    case other =>
      refine hother.imp id fun hfields e he hea => ?_
      obtain ⟨f, rfl⟩ := (mem_roundEntries ..).mp he
      exact hfields f hea.symm

/-! ### The feed-forward (R183) -/

theorem feedForward_getElem (hash v : Vector Word 8) (j : Fin 8) :
    (feedForward hash v)[j] = add32 [hash[j], v[j]] := by
  fin_cases j <;> rfl

/-- Settles O35: HASH takes the word by word sums of `feedForward`. -/
theorem feedfwdResult : Obligations.FeedfwdResult := by
  refine fun s => ⟨_, exec_feedfwd s, fun j => ?_⟩
  rw [feedForward_getElem, add32_two_toNat]

end Sys2Proof.Machine
end

/-! PROOFS. The host's writes and commands (43_commands.md): the writes to BLK and MSGLEN, what is refused while BUSY
and what is not, and the outcomes of BLOCK and NOP. -/

section
namespace Sys2Proof.Machine

open Sys2Proof

/-! ### The BUSY rule on a shared operation (R212) -/

theorem unlessBusy_of_busy (f : State → State) {s : State} (h : s.phase = .busy) :
    unlessBusy f s = { s with err := .busy } := if_pos h

theorem unlessBusy_of_not_busy (f : State → State) {s : State} (h : s.phase ≠ .busy) :
    unlessBusy f s = f s := if_neg h

theorem startRun_of_busy (trace : Bool) {s : State} (h : s.phase = .busy) :
    startRun trace s = { s with err := .busy } := if_pos h

/-! ### The meaning of each write and read -/

@[simp] theorem exec_wrBlk (t : Fin 16) (w : Word) (s : State) :
    exec (.wrBlk t w) s = .next (unlessBusy (fun s => { s with blk := s.blk.set t.val w }) s) := rfl
@[simp] theorem exec_wrMsglen (hi : Bool) (w : Word) (s : State) :
    exec (.wrMsglen hi w) s = .next (unlessBusy (fun s => { s with msglen := setHalf hi s.msglen w }) s) := rfl

@[simp] theorem exec_rdId (s : State) : exec .rdId s = .next (answer idValue s) := rfl
@[simp] theorem exec_rdMsglen (hi : Bool) (s : State) :
    exec (.rdMsglen hi) s = .next (answer (half hi s.msglen) s) := rfl
@[simp] theorem exec_rdBlkcount (hi : Bool) (s : State) :
    exec (.rdBlkcount hi) s = .next (answer (half hi s.blkcount) s) := rfl
@[simp] theorem exec_rdBlkdone (hi : Bool) (s : State) :
    exec (.rdBlkdone hi) s = .next (answer (half hi s.blkdone) s) := rfl
@[simp] theorem exec_rdCap (s : State) : exec .rdCap s = .next (answer (capWord s) s) := rfl
@[simp] theorem exec_rdBlk (t : Fin 16) (s : State) : exec (.rdBlk t) s = .next (answer s.blk[t] s) := rfl
@[simp] theorem exec_rdHash (k : Fin 8) (s : State) : exec (.rdHash k) s = .next (answer s.hash[k] s) := rfl
@[simp] theorem exec_rdTrdata (s : State) : exec .rdTrdata s = .next (answer (trData s) s) := rfl

/-! ### The meaning of each command -/

@[simp] theorem exec_nop (s : State) : exec .nop s = .next s := rfl
@[simp] theorem exec_start (s : State) : exec .start s = .next (startRun false s) := rfl
@[simp] theorem exec_startT (s : State) : exec .startT s = .next (startRun true s) := rfl
@[simp] theorem exec_sreset (s : State) : exec .sreset s = .next (clearControl s) := rfl

theorem exec_block_of_busy {s : State} (h : s.phase = .busy) : exec .block s = .next { s with err := .busy } :=
  if_pos h

theorem exec_block_of_ready {s : State} (h : s.phase = .ready) :
    exec .block s = .next { s with phase := .busy, mstep := 0#7 } := by
  change execBlock s = _
  simp [execBlock, h]

/-- With no run open, or with every block compressed, BLOCK is out of sequence (R217). -/
theorem exec_block_of_idle_or_done {s : State} (h : s.phase = .idle ∨ s.phase = .done) :
    exec .block s = .next { s with err := .badSequence } := by
  change execBlock s = _
  rcases h with h | h <;> simp [execBlock, raiseErr, h]

/-! ### The command words (R104) -/

@[simp] theorem decodeCmd_nop : decodeCmd 0x00000000#32 = .nop := rfl
@[simp] theorem decodeCmd_start : decodeCmd 0x00000001#32 = .start := rfl
@[simp] theorem decodeCmd_startT : decodeCmd 0x00000011#32 = .startT := rfl
@[simp] theorem decodeCmd_block : decodeCmd 0x00000002#32 = .block := rfl
@[simp] theorem decodeCmd_sreset : decodeCmd 0x0000000F#32 = .sreset := rfl

/-- TRACE = 1 is legal with START only. -/
theorem not_commandLegal_nop_trace : ¬ CommandLegal 0x00000010#32 := by
  rw [commandLegal_iff_mem]
  decide

/-- Settles O24: NOP is the identity, its word with TRACE = 1 is no command. -/
theorem nopHasNoEffect : Obligations.NopHasNoEffect := by
  refine fun s => ⟨exec_nop s, ?word, ?traced⟩
  case word => rw [exec_wrCmd, decodeCmd_nop, exec_nop]
  case traced => rw [exec_wrCmd, decodeCmd_of_not_commandLegal not_commandLegal_nop_trace, exec_illegalCmd]

/-- Settles O27: each phase by its own lemma above. -/
theorem blockOutcomes : Obligations.BlockOutcomes := fun _ =>
  ⟨exec_block_of_ready, exec_block_of_busy, exec_block_of_idle_or_done⟩

/-! ### The halves of a 64-bit register (R75, R105) -/

theorem half_high_toNat (x : BitVec 64) : (half true x).toNat = x.toNat / 2 ^ 32 := by
  have hx : x.toNat / 2 ^ 32 < 2 ^ 32 := by omega
  simp only [half, if_true, BitVec.extractLsb'_toNat, Nat.shiftRight_eq_div_pow, Nat.mod_eq_of_lt hx]

theorem half_low_toNat (x : BitVec 64) : (half false x).toNat = x.toNat % 2 ^ 32 := by
  simp [half, BitVec.extractLsb'_toNat]

/-- The bits appended below shift the value up by their number. -/
theorem append_toNat_eq_add {m n : Nat} (x : BitVec m) (y : BitVec n) :
    (x ++ y).toNat = x.toNat * 2 ^ n + y.toNat := by
  rw [BitVec.toNat_append, ← Nat.shiftLeft_add_eq_or_of_lt y.isLt, Nat.shiftLeft_eq]

theorem setHalf_toNat (hi : Bool) (x : BitVec 64) (w : Word) : (setHalf hi x w).toNat =
    if hi then w.toNat * 2 ^ 32 + x.toNat % 2 ^ 32 else x.toNat / 2 ^ 32 * 2 ^ 32 + w.toNat := by
  cases hi
  case true => exact (append_toNat_eq_add w _).trans (by rw [half_low_toNat, if_pos rfl])
  case false => exact (append_toNat_eq_add _ w).trans (by rw [half_high_toNat, if_neg Bool.false_ne_true])

/-! ### Writes to BLK and MSGLEN (R210, R211) -/

/-- Settles O22: the BUSY rule decides between the write, one word or one half, and the refusal. -/
theorem blkAndMsglenWrites : Obligations.BlkAndMsglenWrites := by
  intro s t hi w
  refine ⟨fun hfree => ⟨s.blk.set t.val w, ?blk, ?blkWords⟩,
    fun hfree => ⟨_, ?msglen, setHalf_toNat hi s.msglen w⟩, fun hbusy => ⟨?blkRefused, ?msglenRefused⟩⟩
  case blk => rw [exec_wrBlk, unlessBusy_of_not_busy _ hfree]
  case blkWords =>
    intro j
    rw [Fin.getElem_fin, Vector.getElem_set]
    simp [Fin.ext_iff, eq_comm]
  case msglen => rw [exec_wrMsglen, unlessBusy_of_not_busy _ hfree]
  case blkRefused => rw [exec_wrBlk, unlessBusy_of_busy _ hbusy]
  case msglenRefused => rw [exec_wrMsglen, unlessBusy_of_busy _ hbusy]

/-! ### Accesses while BUSY (R212) -/

/-- Settles O23: the refused accesses run into `unlessBusy`, `startRun` or BLOCK, each of which raises Err(BUSY) here;
the meaning of every other access, by its lemma, does not look at the phase. -/
theorem busyRule : Obligations.BusyRule := by
  intro s hbusy
  refine ⟨?refused, ?reads, fun w => exec_wrTridx w s, ?reservedReads, ?ignored, ?sreset⟩
  case refused =>
    simp [exec_wrCmd, unlessBusy_of_busy _ hbusy, startRun_of_busy _ hbusy, exec_block_of_busy hbusy]
  case reads => simp [answer]
  case reservedReads => simp [answer]
  case ignored => simp [exec_wrCmd]
  case sreset => simp [exec_wrCmd, clearControl, TrIdx.ofWord]

end Sys2Proof.Machine
end

/-! PROOFS. Section 0 of the trace (44_trace.md R253): a read of TRDATA with SECT = 0 in a traced run. -/

section
namespace Sys2Proof.Machine

open Sys2Proof

/-! ### What section 0 selects (R257, R258) -/

/-- In a traced run the index alone decides whether a selection in section 0 is valid. -/
theorem trValid_section0 {s : State} (hon : s.traceOn = true) (hrun : s.phase ≠ .idle) (hsect : s.tridx.sect = 0#2) :
    trValid s = decide (s.tridx.index.toNat ≤ 9) := by
  have hopen : ¬ (s.traceOn = false ∨ s.phase = .idle) := by simp [hon, hrun]
  rw [trValid, if_neg hopen, if_pos hsect]

theorem trEntry_section0 {s : State} (hsect : s.tridx.sect = 0#2) :
    trEntry s = s.padinfo.item s.tridx.index.toNat := if_pos hsect

theorem trData_of_trValid {s : State} (h : trValid s = true) : trData s = trEntry s := if_pos h

/-! ### The items as numbers (R253) -/

/-- The topmost `l` bits, widened with zeros to a word, are the value without the `n` bits below them. -/
theorem setWidth_extractLsb'_top_toNat (n l : Nat) (hl : l ≤ 32) (x : BitVec (n + l)) :
    ((x.extractLsb' n l).setWidth 32).toNat = x.toNat / 2 ^ n := by
  have hx : x.toNat / 2 ^ n < 2 ^ l := Nat.div_lt_of_lt_mul (Nat.pow_add .. ▸ x.isLt)
  rw [BitVec.toNat_setWidth_of_le hl, BitVec.extractLsb'_toNat, Nat.shiftRight_eq_div_pow, Nat.mod_eq_of_lt hx]

/-- The ten items of a latch in the order of their indexes, as numbers. -/
def PadInfo.itemNats (p : PadInfo) : List Nat :=
  [p.dataBits.toNat % 2 ^ 32, p.dataBits.toNat / 2 ^ 32, 1, p.zeroPadBits.toNat, 64,
    p.totalBits.toNat % 2 ^ 32, p.totalBits.toNat / 2 ^ 32 % 2 ^ 32, p.totalBits.toNat / 2 ^ 64,
    p.blockCount.toNat % 2 ^ 32, p.blockCount.toNat / 2 ^ 32]

/-- Each item is a constant or a run of bits of one number of the latch, widened with zeros. -/
theorem PadInfo.itemNats_getElem? (p : PadInfo) : ∀ {i : Nat}, i ≤ 9 → p.itemNats[i]? = some (p.item i).toNat
  | 0, _ => congrArg some (half_low_toNat p.dataBits).symm
  | 1, _ => congrArg some (half_high_toNat p.dataBits).symm
  | 2, _ => rfl
  | 3, _ => congrArg some (BitVec.toNat_setWidth_of_le (by decide)).symm
  | 4, _ => rfl
  | 5, _ => congrArg some (BitVec.extractLsb'_toNat 0 32 p.totalBits).symm
  | 6, _ => congrArg some (by simp [PadInfo.item, Nat.shiftRight_eq_div_pow])
  | 7, _ => congrArg some (setWidth_extractLsb'_top_toNat 64 1 (by decide) p.totalBits).symm
  | 8, _ => congrArg some (BitVec.extractLsb'_toNat 0 32 p.blockCount).symm
  | 9, _ => congrArg some (setWidth_extractLsb'_top_toNat 32 24 (by decide) p.blockCount).symm

/-- Settles O20: the selection is valid, so the read answers the latch's item at that index. -/
theorem paddingItemsRead : Obligations.PaddingItemsRead := by
  intro s hon hrun hsect hindex
  have hvalid : trValid s = true := (trValid_section0 hon hrun hsect).trans (decide_eq_true hindex)
  have hdata : trData s = s.padinfo.item s.tridx.index.toNat :=
    (trData_of_trValid hvalid).trans (trEntry_section0 hsect)
  exact ⟨trData s, exec_rdTrdata s, hdata ▸ s.padinfo.itemNats_getElem? hindex⟩

end Sys2Proof.Machine
end

/-! PROOFS. The decoder and the encoder (30_encoding.md): each undoes the other in every format, and the rows of the
table part the words of formats B, U and F. -/

section
namespace Sys2Proof.Machine

open Sys2Proof

/-! ### Accesses (R101, R102) -/

/-- WE and WADDR of a code put together from them. -/
theorem busFields_busCode : ∀ (we : Bool) (waddr : BitVec 6),
    busWe (busCode we waddr) = we ∧ busWaddr (busCode we waddr) = waddr.toNat := by
  decide

theorem code_toNat_eq_busFields : ∀ code : BitVec 7,
    code.toNat = (if busWe code then 64 else 0) + busWaddr code := by
  decide

theorem decodeBus_busCode (we : Bool) (waddr : BitVec 6) (w : Word) :
    decodeBus (busCode we waddr) w = if we then decodeWrite waddr.toNat w else decodeRead waddr.toNat := by
  rw [decodeBus, (busFields_busCode we waddr).1, (busFields_busCode we waddr).2]

theorem decode_readAt (waddr : BitVec 6) : decode (readAt waddr) = .ok (decodeRead waddr.toNat) :=
  congrArg Except.ok (decodeBus_busCode false waddr 0#32)

theorem decode_writeAt (waddr : BitVec 6) (w : Word) : decode (writeAt waddr w) = .ok (decodeWrite waddr.toNat w) :=
  congrArg Except.ok (decodeBus_busCode true waddr w)

/-- A reserved access comes back when its address holds the reserved row `mk` in both columns of R102: as a read it
carries no data word (log 17). -/
theorem decode_reserved {mk : Bool → Word → Instr} {waddr : BitVec 6} {we : Bool} {w : Word}
    (hok : reservedAccessOk we w = true) (hread : decodeRead waddr.toNat = mk false 0#32)
    (hwrite : decodeWrite waddr.toNat w = mk true w) : decode (.bus (busCode we waddr) w) = .ok (mk we w) := by
  refine congrArg Except.ok ((decodeBus_busCode we waddr w).trans ?_)
  cases we with
  | true => exact hwrite
  | false =>
    obtain rfl : w = 0#32 := by simpa [reservedAccessOk] using hok
    exact hread

theorem decodeRead_blk : ∀ t : Fin 16, decodeRead (0x10#6 + BitVec.ofNat 6 t.val).toNat = .rdBlk t := by decide

theorem decodeWrite_blk (w : Word) (t : Fin 16) :
    decodeWrite (0x10#6 + BitVec.ofNat 6 t.val).toNat w = .wrBlk t w := by
  fin_cases t <;> rfl

theorem decodeRead_hash : ∀ k : Fin 8, decodeRead (0x20#6 + BitVec.ofNat 6 k.val).toNat = .rdHash k := by decide

theorem decodeWrite_hash (w : Word) (k : Fin 8) :
    decodeWrite (0x20#6 + BitVec.ofNat 6 k.val).toNat w = .wrHash k w := by
  fin_cases k <;> rfl

/-- In the column WE = 0 every address below 64 is a well-formed read with its own code. -/
theorem encode_decodeRead : ∀ a < 64, (decodeRead a).wellFormed = true ∧
    (encode (decodeRead a)).format = .b ∧ (encode (decodeRead a)).bits = a := by
  decide

/-- In the column WE = 1 every address below 64 is a well-formed write with its own code, whatever the data word. -/
theorem encode_decodeWrite {a : Nat} (ha : a < 64) (w : Word) : (decodeWrite a w).wellFormed = true ∧
    (encode (decodeWrite a w)).format = .b ∧ (encode (decodeWrite a w)).bits = 64 + a := by
  interval_cases a <;> exact ⟨rfl, rfl, rfl⟩

theorem encode_decodeBus (code : BitVec 7) (w : Word) : (decodeBus code w).wellFormed = true ∧
    (encode (decodeBus code w)).format = .b ∧ (encode (decodeBus code w)).bits = code.toNat := by
  have ha : busWaddr code < 64 := Nat.mod_lt _ (by decide)
  rw [code_toNat_eq_busFields code, decodeBus]
  cases busWe code with
  | true => exact encode_decodeWrite ha w
  | false => simpa using encode_decodeRead _ ha

/-! ### Command words (R103, R104) -/

/-- The command of a word is well formed, and coded by that word. -/
theorem encode_decodeCmd (w : Word) : (decodeCmd w).wellFormed = true ∧ encode (decodeCmd w) = .cmd w := by
  by_cases hw : w ∈ legalCommandWords
  · simp only [legalCommandWords, List.mem_cons, List.not_mem_nil, or_false] at hw
    rcases hw with rfl | rfl | rfl | rfl | rfl <;> exact ⟨rfl, rfl⟩
  · rw [decodeCmd_of_not_commandLegal (mt (commandLegal_iff_mem w).mp hw)]
    exact ⟨by simpa [Instr.wellFormed] using hw, rfl⟩

/-! ### Micro-ops (R107, R108) -/

theorem decodeUop_expand : ∀ idx : Fin 48,
    decodeUop (0b01#2 ++ BitVec.ofNat 6 idx.val) = .ok (.expand idx) := by
  decide

theorem decodeUop_round : ∀ i : Fin 64, decodeUop (0b10#2 ++ BitVec.ofNat 6 i.val) = .ok (.round i) := by
  decide

theorem encode_decodeUop : ∀ w : BitVec 8, ∀ i ∈ (decodeUop w).toOption,
    i.wellFormed = true ∧ encode i = .uop w := by
  decide

/-! ### ALU functions (R109) -/

theorem encode_decodeAlu {fn : BitVec 4} {o : AluIn} {i : Instr} (h : decodeAlu fn o = .ok i) :
    i.wellFormed = true ∧ (encode i).format = .f ∧ (encode i).bits = fn.toNat := by
  unfold decodeAlu at h
  split at h <;> cases h <;> rename_i heq <;> exact ⟨rfl, rfl, heq.symm⟩

/-! ### Both directions -/

/-- Settles O1: constructor by constructor, the word of an instruction lies where the decoder looks for it. -/
theorem decodeEncodeRoundTrip : Obligations.DecodeEncodeRoundTrip := by
  intro i hwf
  cases i with
  | rdId | rdCmd | rdStatus | rdProgress | rdCap | rdTridx | rdTrdata => exact decode_readAt _
  | wrId | wrCmd | wrStatus | wrProgress | wrCap | wrTridx | wrTrdata => exact decode_writeAt _ _
  | rdMsglen hi | rdBlkcount hi | rdBlkdone hi => cases hi <;> exact decode_readAt _
  | wrMsglen hi w | wrBlkcount hi w | wrBlkdone hi w => cases hi <;> exact decode_writeAt _ w
  | rdBlk t => exact (decode_readAt _).trans (congrArg _ (decodeRead_blk t))
  | wrBlk t w => exact (decode_writeAt _ w).trans (congrArg _ (decodeWrite_blk w t))
  | rdHash k => exact (decode_readAt _).trans (congrArg _ (decodeRead_hash k))
  | wrHash k w => exact (decode_writeAt _ w).trans (congrArg _ (decodeWrite_hash w k))
  | rsv0B we w => exact decode_reserved (mk := .rsv0B) hwf rfl rfl
  | rsv0C0F we low w => fin_cases low <;> exact decode_reserved (mk := fun we => .rsv0C0F we _) hwf rfl rfl
  | rsv282F we low w => fin_cases low <;> exact decode_reserved (mk := fun we => .rsv282F we _) hwf rfl rfl
  | rsv3233 we low w => fin_cases low <;> exact decode_reserved (mk := fun we => .rsv3233 we _) hwf rfl rfl
  | rsv3437 we low w => fin_cases low <;> exact decode_reserved (mk := fun we => .rsv3437 we _) hwf rfl rfl
  | rsv383F we low w => fin_cases low <;> exact decode_reserved (mk := fun we => .rsv383F we _) hwf rfl rfl
  | nop | start | startT | block | sreset | load | feedfwd => rfl
  | illegalCmd w =>
    have hw : w ∉ legalCommandWords := by simpa [Instr.wellFormed] using hwf
    exact congrArg Except.ok (decodeCmd_of_not_commandLegal (mt (commandLegal_iff_mem w).mp hw))
  | expand idx => exact decodeUop_expand idx
  | round i => exact decodeUop_round i
  | add32 | rotr | shr | xor32 | and32 | not32 | ch | maj | bsig0 | bsig1 | ssig0 | ssig1 => rfl

/-- Settles O2: each format by its lemma above. -/
theorem encodeDecodeAgree : Obligations.EncodeDecodeAgree := by
  intro c i h
  cases c with
  | bus code w =>
    obtain rfl : decodeBus code w = i := Except.ok.inj h
    exact encode_decodeBus code w
  | cmd w =>
    obtain rfl : decodeCmd w = i := Except.ok.inj h
    obtain ⟨hwf, hcode⟩ := encode_decodeCmd w
    rw [hcode]
    exact ⟨hwf, rfl, rfl⟩
  | uop w =>
    obtain ⟨hwf, hcode⟩ := encode_decodeUop w i (by rw [show decodeUop w = .ok i from h]; rfl)
    rw [hcode]
    exact ⟨hwf, rfl, rfl⟩
  | alu fn o => exact encode_decodeAlu h

/-- Settles O3: the decoder computes each of the twelve. -/
theorem sampleWordsDecode : Obligations.SampleWordsDecode :=
  ⟨rfl, rfl, rfl, rfl, rfl, rfl, rfl, rfl, rfl, rfl, rfl, rfl⟩

/-! ### The rows of format B (R102) -/

/-- The data word of a write does not choose its row. -/
theorem decodeWrite_mnemonic {a : Nat} (ha : a < 64) (w : Word) :
    (decodeWrite a w).mnemonic = (decodeWrite a 0#32).mnemonic := by
  interval_cases a <;> rfl

theorem decodeBus_mnemonic (code : BitVec 7) (w : Word) :
    (decodeBus code w).mnemonic = (decodeBus code 0#32).mnemonic := by
  rw [decodeBus, decodeBus]
  cases busWe code with
  | true => exact decodeWrite_mnemonic (Nat.mod_lt _ (by decide)) w
  | false => rfl

/-- Of the 30 rows exactly one holds a code, and it has the mnemonic of the instruction the code decodes to. -/
theorem map_mnemonic_filter_busRows : ∀ code : BitVec 7,
    (busRows.filter (·.holds (.bus code 0#32))).map Row.mnemonic = [(decodeBus code 0#32).mnemonic] := by
  decide +kernel

/-- Settles O4: no row looks at the data word, so the row of the code alone is the one. -/
theorem accessCodesLieInOneRow : Obligations.AccessCodesLieInOneRow := by
  intro code w
  obtain ⟨r, hfilter, hname⟩ := List.map_eq_singleton_iff.mp (map_mnemonic_filter_busRows code)
  have hholds : ∀ r', r' ∈ busRows ∧ r'.holds (.bus code w) = true ↔ r' = r := fun r' => by
    rw [← List.mem_singleton (b := r), ← hfilter, List.mem_filter]
    rfl
  obtain ⟨hr, hrow⟩ := (hholds r).mpr rfl
  exact ⟨r, hr, hrow, hname.trans (decodeBus_mnemonic code w).symm, fun r' hr' h' => (hholds r').mp ⟨hr', h'⟩⟩

/-! ### The words of the sequencer (R107, R108) -/

theorem uop_eq_none : ∀ m : BitVec 7, 113 < m.toNat → uop m = none := by decide

/-- CLASS stands above the six bits of IDX (R107). -/
theorem uopWord_toNat (cls : BitVec 2) {idx : Nat} (hidx : idx < 64) :
    (cls ++ BitVec.ofNat 6 idx).toNat = cls.toNat * 2 ^ 6 + idx := by
  rw [append_toNat_eq_add, BitVec.toNat_ofNat, Nat.mod_eq_of_lt hidx]

/-- The word of each MSTEP, as R107 maps it, and its micro-op. -/
theorem exists_uop_eq {m : BitVec 7} (hm : m.toNat ≤ 113) : ∃ w i, uop m = some w ∧ decode (.uop w) = .ok i ∧
    w.toNat = if m.toNat = 0 then 0b00 * 64 else if m.toNat ≤ 48 then 0b01 * 64 + (m.toNat - 1)
      else if m.toNat ≤ 112 then 0b10 * 64 + (m.toNat - 49) else 0b11 * 64 := by
  simp only [uop]
  split_ifs
  · exact ⟨_, .load, rfl, rfl, rfl⟩
  · exact ⟨_, _, rfl, decodeUop_expand ⟨m.toNat - 1, by omega⟩, uopWord_toNat _ (by omega)⟩
  · exact ⟨_, _, rfl, decodeUop_round ⟨m.toNat - 49, by omega⟩, uopWord_toNat _ (by omega)⟩
  · exact ⟨_, .feedfwd, rfl, rfl, rfl⟩
  · omega

theorem decode_uop_reserved_iff : ∀ w : BitVec 8, decode (.uop w) = .error (.reservedMicroOp w) ↔
    (w.extractLsb' 6 2 = 0b00#2 ∧ w.extractLsb' 0 6 ≠ 0#6) ∨
    (w.extractLsb' 6 2 = 0b01#2 ∧ 48 ≤ (w.extractLsb' 0 6).toNat) ∨
    (w.extractLsb' 6 2 = 0b11#2 ∧ w.extractLsb' 0 6 ≠ 0#6) := by
  decide

/-- Settles O6: the mapping by its four ranges, the reserved words over all 256. -/
theorem microOpWords : Obligations.MicroOpWords :=
  ⟨fun _ => exists_uop_eq, uop_eq_none, decode_uop_reserved_iff⟩

/-! ### The function codes of the ALU (R109) -/

/-- The codes from 0xC on name no function. -/
theorem decodeAlu_reserved {fn : BitVec 4} (h : 0xC ≤ fn.toNat) (o : AluIn) :
    decodeAlu fn o = .error (.reservedAluFunction fn) := by
  unfold decodeAlu
  split
  case h_13 => rfl
  all_goals omega

theorem fetch_alu {s : State} {fn : BitVec 4} {o : AluIn} {rest : List Input} (h : s.inputs = .alu fn o :: rest) :
    fetch s = fetchCode (.alu fn o) := by
  simp [fetch, h]

/-- Settles O7: the twelve codes compute, and a step on one of the other four is refused. -/
theorem aluFunctionSelect : Obligations.AluFunctionSelect := by
  refine fun o => ⟨rfl, fun fn s rest hfn hin => step_of_refuse ?_⟩
  rw [fetch_alu hin, fetchCode, decode, decodeAlu_reserved hfn o]
  rfl

end Sys2Proof.Machine
end

/-! PROOFS. What one instruction and one step can do, said once: every instruction completes with one of the effects
of `Effect`, and a micro-op runs only at its own MSTEP. -/

section
namespace Sys2Proof.Machine

open Sys2Proof

/-! ### The command a write to CMD carries (R104, log 13) -/

/-- The instruction whose effect an instruction has: a write to CMD has that of the command its word decodes to. -/
def effective : Instr → Instr
  | .wrCmd w => decodeCmd w
  | i => i

theorem exec_effective (i : Instr) (s : State) : exec (effective i) s = exec i s := by
  cases i with
  | wrCmd w => exact (exec_wrCmd w s).symm
  | _ => rfl

/-- What has the effect of a command is that command or a write to CMD of its word. -/
theorem eq_or_eq_wrCmd {i c : Instr} {w : Word} (h : effective i = c) (hc : encode c = .cmd w) :
    i = c ∨ i = .wrCmd w := by
  cases i with
  | wrCmd w' =>
    have hw : Code.cmd w' = .cmd w := (encode_decodeCmd w').2.symm.trans ((congrArg encode h).trans hc)
    exact .inr (congrArg _ (Code.cmd.inj hw))
  | _ => exact .inl h

/-- An instruction of another format than C is the only one that has its effect. -/
theorem eq_of_effective {i c : Instr} (h : effective i = c) (hc : ((encode c).format != .c) = true) : i = c := by
  cases i with
  | wrCmd w =>
    have hcode : encode c = .cmd w := (congrArg encode h.symm).trans (encode_decodeCmd w).2
    rw [hcode] at hc
    cases hc
  | _ => exact h

/-! ### The effects -/

/-- START or START.T (R216). -/
def startInstr (trace : Bool) : Instr := if trace then .startT else .start

theorem exec_startInstr (trace : Bool) (s : State) : exec (startInstr trace) s = .next (startRun trace s) := by
  cases trace <;> rfl

/-- The instructions that BUSY refuses (R212). -/
def refusedByBusy (i : Instr) : Prop :=
  (∃ t w, i = .wrBlk t w) ∨ (∃ hi w, i = .wrMsglen hi w) ∨ (∃ trace, i = startInstr trace) ∨ i = .block

/-- What an instruction other than a write to CMD can do to a state, case by case; the micro-ops as `exec_load`,
`exec_expand`, `exec_round` and `exec_feedfwd` give them. -/
inductive Effect : Instr → State → State → Prop
  | read {i s} (x : Word) (hformat : (encode i).format = .b) (hwe : (encode i).bits < 64) : Effect i s (answer x s)
  | alu {i s} (x : Word) (hformat : (encode i).format = .f) : Effect i s (drive x s)
  | none {i s} : Effect i s s
  | tridx {s} (w : Word) : Effect (.wrTridx w) s { s with tridx := TrIdx.ofWord w }
  | blk {s} (hfree : s.phase ≠ .busy) (t : Fin 16) (w : Word) :
      Effect (.wrBlk t w) s { s with blk := s.blk.set t.val w }
  | msglen {s} (hfree : s.phase ≠ .busy) (hi : Bool) (w : Word) :
      Effect (.wrMsglen hi w) s { s with msglen := setHalf hi s.msglen w }
  | refused {i s} (hbusy : s.phase = .busy) (hi : refusedByBusy i) : Effect i s { s with err := .busy }
  | illegal {s} (w : Word) : Effect (.illegalCmd w) s { s with err := .illegalCmd }
  | badSequence {s} (hphase : s.phase = .idle ∨ s.phase = .done) : Effect .block s { s with err := .badSequence }
  | block {s} (hready : s.phase = .ready) : Effect .block s { s with phase := .busy, mstep := 0#7 }
  | startFailed {s} (hfree : s.phase ≠ .busy) (trace : Bool) {code : ErrCode}
      (hcode : code = .msgTooLarge ∨ code = .traceCapacity) : Effect (startInstr trace) s (startFail code s)
  | opened {s} (hfree : s.phase ≠ .busy) (trace : Bool) (hlen : s.msglen.toNat < 2 ^ 61)
      (hcap : trace = true → (padInfo s.msglen).blockCount.toNat ≤ s.cfg.traceCap) :
      Effect (startInstr trace) s (openRun trace (padInfo s.msglen) s)
  | sreset {s} : Effect .sreset s (clearControl s)
  | load {s} : Effect .load s { s with
      w := loadSchedule s.blk s.w, v := s.hash, mstep := 1#7, trace := (record (loadEntries s.blk) s).trace }
  | expand {s} (idx : Fin 48) : Effect (.expand idx) s { s with
      w := s.w.set (idx.val + 16) (expandWord s.w idx), mstep := s.mstep + 1#7
      trace := (record [(.sched (Fin.ofNat 64 (idx.val + 16)), expandWord s.w idx)] s).trace }
  | round {s} (i : Fin 64) : Effect (.round i) s { s with
      v := roundRegsOf i s, t1 := roundT1 s.v (k i) s.w[i], t2 := roundT2 s.v, mstep := s.mstep + 1#7
      trace := (record (roundEntriesOf i s) s).trace }
  | feedfwd {s} : Effect .feedfwd s { s with
      hash := feedForward s.hash s.v, blkdone := s.blkdone + 1#64, mstep := 0#7
      phase := if s.blkdone + 1#64 = s.blkcount then .done else .ready }

/-! ### Every instruction has one of the effects -/

theorem busCode_toNat (we : Bool) (waddr : BitVec 6) :
    (busCode we waddr).toNat = (if we then 64 else 0) + waddr.toNat := by
  rw [busCode, append_toNat_eq_add]
  cases we <;> simp

theorem readAt_bits_lt (waddr : BitVec 6) : (readAt waddr).bits < 64 :=
  (busCode_toNat false waddr).trans_lt (by have := waddr.isLt; simp only [Bool.false_eq_true, if_false]; omega)

/-- A read at a word address. -/
theorem Effect.of_readAt {i : Instr} {waddr : BitVec 6} (s : State) (x : Word) (h : encode i = readAt waddr) :
    Effect i s (answer x s) :=
  .read x (by rw [h]; rfl) (by rw [h]; exact readAt_bits_lt waddr)

/-- A reserved access is a read of 0 or an ignored write (R53). -/
theorem Effect.of_reserved {i : Instr} {we : Bool} {waddr : BitVec 6} {w : Word} (s : State)
    (h : encode i = .bus (busCode we waddr) w) : Effect i s (reservedAccess we s) := by
  cases we with
  | true => exact .none
  | false => exact .read 0#32 (by rw [h]; rfl) (by rw [h]; exact readAt_bits_lt waddr)

theorem Effect.of_start (trace : Bool) (s : State) : Effect (startInstr trace) s (startRun trace s) := by
  rcases startRun_cases trace s with
    ⟨hbusy, h⟩ | ⟨hfree, -, h⟩ | ⟨hfree, -, -, -, h⟩ | ⟨hfree, hlen, hcap, h⟩ <;> rw [h]
  · exact .refused hbusy (.inr (.inr (.inl ⟨trace, rfl⟩)))
  · exact .startFailed hfree trace (.inl rfl)
  · exact .startFailed hfree trace (.inr rfl)
  · exact .opened hfree trace hlen hcap

theorem Effect.of_unlessBusy {i : Instr} {s : State} {f : State → State} (hi : refusedByBusy i)
    (hf : s.phase ≠ .busy → Effect i s (f s)) : Effect i s (unlessBusy f s) := by
  rcases unlessBusy_cases f s with ⟨hbusy, h⟩ | ⟨hfree, h⟩ <;> rw [h]
  · exact .refused hbusy hi
  · exact hf hfree

/-- Every instruction but a write to CMD completes with one of the effects. -/
theorem exists_effect {i : Instr} (hi : ∀ w, i ≠ .wrCmd w) (s : State) : ∃ t, exec i s = .next t ∧ Effect i s t := by
  cases i with
  | wrCmd w => exact absurd rfl (hi w)
  | rdId | rdCmd | rdStatus | rdProgress | rdMsglen | rdBlkcount | rdBlkdone | rdCap | rdBlk | rdHash | rdTridx
  | rdTrdata => exact ⟨_, rfl, .of_readAt s _ rfl⟩
  | rsv0B | rsv0C0F | rsv282F | rsv3233 | rsv3437 | rsv383F => exact ⟨_, rfl, .of_reserved s rfl⟩
  | wrId | wrStatus | wrProgress | wrBlkcount | wrBlkdone | wrCap | wrHash | wrTrdata | nop => exact ⟨_, rfl, .none⟩
  | add32 | rotr | shr | xor32 | and32 | not32 | ch | maj | bsig0 | bsig1 | ssig0 | ssig1 =>
    exact ⟨_, rfl, .alu _ rfl⟩
  | wrTridx w => exact ⟨_, rfl, .tridx w⟩
  | wrBlk t w => exact ⟨_, rfl, .of_unlessBusy (.inl ⟨t, w, rfl⟩) fun hfree => .blk hfree t w⟩
  | wrMsglen half w =>
    exact ⟨_, rfl, .of_unlessBusy (.inr (.inl ⟨half, w, rfl⟩)) fun hfree => .msglen hfree half w⟩
  | start => exact ⟨_, rfl, .of_start false s⟩
  | startT => exact ⟨_, rfl, .of_start true s⟩
  | block =>
    cases hphase : s.phase with
    | busy => exact ⟨_, exec_block_of_busy hphase, .refused hphase (.inr (.inr (.inr rfl)))⟩
    | ready => exact ⟨_, exec_block_of_ready hphase, .block hphase⟩
    | idle => exact ⟨_, exec_block_of_idle_or_done (.inl hphase), .badSequence (.inl hphase)⟩
    | done => exact ⟨_, exec_block_of_idle_or_done (.inr hphase), .badSequence (.inr hphase)⟩
  | sreset => exact ⟨_, rfl, .sreset⟩
  | illegalCmd w => exact ⟨_, rfl, .illegal w⟩
  | load => exact ⟨_, exec_load s, .load⟩
  | expand idx => exact ⟨_, exec_expand idx s, .expand idx⟩
  | round i => exact ⟨_, exec_round i s, .round i⟩
  | feedfwd => exact ⟨_, exec_feedfwd s, .feedfwd⟩

theorem effective_ne_wrCmd (i : Instr) (w : Word) : effective i ≠ .wrCmd w := by
  intro h
  obtain rfl := eq_of_effective h rfl
  have hcode : Code.cmd w = encode (.wrCmd w) := h ▸ (encode_decodeCmd w).2.symm
  cases hcode

/-- No instruction faults or is refused. -/
theorem exists_exec_next (i : Instr) (s : State) : ∃ t, exec i s = .next t ∧ Effect (effective i) s t := by
  rw [← exec_effective]
  exact exists_effect (effective_ne_wrCmd i) s

theorem Effect.of_exec {i : Instr} {s t : State} (h : exec i s = .next t) : Effect (effective i) s t := by
  obtain ⟨t', hnext, heffect⟩ := exists_exec_next i s
  obtain rfl : t' = t := Host.Outcome.next.inj (hnext.symm.trans h)
  exact heffect

/-- Settles O28: a write to CMD is the command its word decodes to, and every command completes. -/
theorem commandWriteRunsCommand : Obligations.CommandWriteRunsCommand := fun s w =>
  have ⟨t, hnext, _⟩ := exists_exec_next (.wrCmd w) s
  ⟨⟨decodeCmd w, t, rfl, exec_wrCmd w s, hnext⟩, exec_illegalCmd w s⟩

/-! ### The sequencer's turn (R185) -/

/-- The micro-op of each MSTEP. -/
inductive MicroOpAt : Nat → Instr → Prop
  | load : MicroOpAt 0 .load
  | expand (idx : Fin 48) : MicroOpAt (idx.val + 1) (.expand idx)
  | round (i : Fin 64) : MicroOpAt (i.val + 49) (.round i)
  | feedfwd : MicroOpAt 113 .feedfwd

theorem MicroOpAt.eq_of_load {n : Nat} (h : MicroOpAt n .load) : n = 0 := by cases h; rfl

theorem MicroOpAt.eq_of_expand {n : Nat} {idx : Fin 48} (h : MicroOpAt n (.expand idx)) : n = idx.val + 1 := by
  cases h; rfl

theorem MicroOpAt.eq_of_round {n : Nat} {i : Fin 64} (h : MicroOpAt n (.round i)) : n = i.val + 49 := by cases h; rfl

theorem exists_microOpAt {n : Nat} (hn : n ≤ 113) : ∃ i, MicroOpAt n i := by
  obtain rfl | ⟨m, hm, rfl⟩ | ⟨m, hm, rfl⟩ | rfl :
      n = 0 ∨ (∃ m < 48, n = m + 1) ∨ (∃ m < 64, n = m + 49) ∨ n = 113 := by
    rcases Nat.eq_zero_or_pos n with h0 | hpos
    · exact .inl h0
    · by_cases h48 : n ≤ 48
      · exact .inr (.inl ⟨n - 1, by omega, by omega⟩)
      · by_cases h112 : n ≤ 112
        · exact .inr (.inr (.inl ⟨n - 49, by omega, by omega⟩))
        · exact .inr (.inr (.inr (by omega)))
  · exact ⟨_, .load⟩
  · exact ⟨_, .expand ⟨m, hm⟩⟩
  · exact ⟨_, .round ⟨m, hm⟩⟩
  · exact ⟨_, .feedfwd⟩

theorem eq_ofNat_of_toNat_eq {m : BitVec 7} {n : Nat} (h : n = m.toNat) : m = BitVec.ofNat 7 n := by
  rw [h, BitVec.ofNat_toNat, BitVec.setWidth_eq]

theorem fetchCore_of_microOpAt {s : State} {i : Instr} (hbusy : s.phase = .busy) (hi : MicroOpAt s.mstep.toNat i) :
    fetchCore s = .run i := by
  generalize hn : s.mstep.toNat = n at hi
  have hm : s.mstep = BitVec.ofNat 7 n := eq_ofNat_of_toNat_eq hn.symm
  cases hi with
  | load => exact fetchCore_load hbusy hm
  | expand idx => exact fetchCore_expand hbusy idx hm
  | round i => exact fetchCore_round hbusy i hm
  | feedfwd => exact fetchCore_feedfwd hbusy hm

/-- A BUSY sequencer above MSTEP 113 has no micro-op (log 7). -/
theorem fetchCore_of_mstep_gt {s : State} (hbusy : s.phase = .busy) (hm : 113 < s.mstep.toNat) :
    fetchCore s = .refuse (.noMicroOp s.mstep) := by
  simp only [fetchCore, hbusy, uop_eq_none s.mstep hm, if_true]

/-- The sequencer runs the micro-op of MSTEP, waits, or refuses an MSTEP that has none. -/
theorem fetchCore_cases (s : State) :
    (s.phase ≠ .busy ∧ fetchCore s = .wait) ∨
    (s.phase = .busy ∧ ∃ i, MicroOpAt s.mstep.toNat i ∧ fetchCore s = .run i) ∨
    (113 < s.mstep.toNat ∧ fetchCore s = .refuse (.noMicroOp s.mstep)) := by
  by_cases hbusy : s.phase = .busy
  · by_cases hm : s.mstep.toNat ≤ 113
    · obtain ⟨i, hi⟩ := exists_microOpAt hm
      exact .inr (.inl ⟨hbusy, i, hi, fetchCore_of_microOpAt hbusy hi⟩)
    · exact .inr (.inr ⟨by omega, fetchCore_of_mstep_gt hbusy (by omega)⟩)
  · exact .inl ⟨hbusy, fetchCore_not_busy hbusy⟩

theorem decode_eq_ok_of_fetchCode {c : Code} {i : Instr} (h : fetchCode c = .run i) : decode c = .ok i := by
  unfold fetchCode at h
  split at h
  next j hj => exact hj.trans (congrArg Except.ok (Fetched.run.inj h))
  next => cases h

/-- What the next event decodes to has the format of the event's place. -/
theorem format_of_fetchCode {c : Code} {i : Instr} (h : fetchCode c = .run i) : (encode i).format = c.format :=
  (encodeDecodeAgree c i (decode_eq_ok_of_fetchCode h)).2.1

/-- A step runs a micro-op of a BUSY sequencer, at its own MSTEP, or an instruction of format B or F. -/
theorem fetch_run_cases {s : State} {i : Instr} (h : fetch s = .run i) :
    (s.phase = .busy ∧ MicroOpAt s.mstep.toNat i) ∨ (encode i).format = .b ∨ (encode i).format = .f := by
  have hcore : fetchCore s = .run i → s.phase = .busy ∧ MicroOpAt s.mstep.toNat i := fun h => by
    rcases fetchCore_cases s with ⟨-, hw⟩ | ⟨hbusy, j, hj, hr⟩ | ⟨-, hr⟩
    · rw [hw] at h; cases h
    · obtain rfl : j = i := Fetched.run.inj (hr.symm.trans h)
      exact ⟨hbusy, hj⟩
    · rw [hr] at h; cases h
  cases hin : s.inputs with
  | nil => exact .inl (hcore ((fetch_core (.inl hin)).symm.trans h))
  | cons e rest =>
    cases e with
    | core => exact .inl (hcore ((fetch_core (.inr ⟨rest, hin⟩)).symm.trans h))
    | port code w =>
      obtain rfl : decodeBus code w = i := Fetched.run.inj ((fetch_port hin).symm.trans h)
      exact .inr (.inl (encode_decodeBus code w).2.1)
    | bus we addr w =>
      rw [fetch_bus hin] at h
      cases hw : windowAddr s.cfg addr with
      | none => rw [fetchBus_of_none hw] at h; cases h
      | some waddr =>
        obtain rfl := Fetched.run.inj ((fetchBus_of_some hw).symm.trans h)
        exact .inr (.inl (encode_decodeBus _ w).2.1)
    | reset d => simp [fetch, hin] at h
    | alu fn o => exact .inr (.inr (format_of_fetchCode ((fetch_alu hin).symm.trans h)))

theorem microOpAt_of_fetch {s : State} {i : Instr} (h : fetch s = .run i) (hi : (encode i).format = .u) :
    s.phase = .busy ∧ MicroOpAt s.mstep.toNat i := by
  rcases fetch_run_cases h with hmicro | hb | hf
  · exact hmicro
  · rw [hi] at hb; cases hb
  · rw [hi] at hf; cases hf

/-- Settles O13: the event is fetched as the instruction its code decodes to. -/
theorem stepRunsDecodedAccess : Obligations.StepRunsDecodedAccess := by
  refine ⟨fun s code w rest i hin hi => ?port, fun s fn o rest i hin hi => ?alu⟩
  case port =>
    obtain rfl : decodeBus code w = i := Except.ok.inj hi
    rw [step_of_run (fetch_port hin), consume_of_inputs hin]
  case alu =>
    have hfetch : fetch s = .run i := (fetch_alu hin).trans (by simp [fetchCode, hi])
    rw [step_of_run hfetch, consume_of_inputs hin]

theorem mstep_succ_toNat {m : BitVec 7} (h : m.toNat < 113) : (m + 1#7).toNat = m.toNat + 1 :=
  BitVec.toNat_add_of_lt (show m.toNat + 1 < 2 ^ 7 by omega)

theorem mstep_succ_le {m : BitVec 7} (h : m.toNat < 113) : (m + 1#7).toNat ≤ 113 := by
  rw [mstep_succ_toNat h]
  exact h

/-- Every micro-op but FEEDFWD advances MSTEP and stays BUSY, FEEDFWD leaves BUSY with MSTEP 0 (R185). -/
theorem MicroOpAt.exec_advances {s : State} {i : Instr} (hbusy : s.phase = .busy) (hi : MicroOpAt s.mstep.toNat i) :
    ∃ t, exec i s = .next t ∧ (s.mstep.toNat < 113 → t.mstep.toNat = s.mstep.toNat + 1 ∧ t.phase = .busy) ∧
      (s.mstep.toNat = 113 → t.mstep = 0#7 ∧ t.phase ≠ .busy) := by
  generalize hn : s.mstep.toNat = n at hi
  have hnext : n < 113 → (s.mstep + 1#7).toNat = n + 1 := fun h => hn ▸ mstep_succ_toNat (hn ▸ h)
  cases hi with
  | load => exact ⟨_, exec_load s, fun _ => ⟨rfl, hbusy⟩, fun h => by omega⟩
  | expand idx => exact ⟨_, exec_expand idx s, fun h => ⟨hnext h, hbusy⟩, fun h => by omega⟩
  | round i => exact ⟨_, exec_round i s, fun h => ⟨hnext h, hbusy⟩, fun h => by omega⟩
  | feedfwd => exact ⟨_, exec_feedfwd s, fun h => by omega, fun _ => ⟨rfl, by dsimp only; split <;> simp⟩⟩

/-- The sequencer's turn while BUSY. -/
theorem step_of_microOpAt {s : State} {i : Instr} (hin : s.inputs = [] ∨ ∃ rest, s.inputs = .core :: rest)
    (hbusy : s.phase = .busy) (hi : MicroOpAt s.mstep.toNat i) : step s = exec i (consume s) :=
  step_of_run ((fetch_core hin).trans (fetchCore_of_microOpAt hbusy hi))

/-- Settles O14: the fetch finds the micro-op of MSTEP, and `MicroOpAt.exec_advances` says what it leaves. -/
theorem stepRunsMicroOp : Obligations.StepRunsMicroOp := by
  intro s hin
  refine ⟨fun hfree => ?wait, fun hbusy hm => ?run⟩
  case wait => exact step_of_wait ((fetch_core hin).trans (fetchCore_not_busy hfree))
  case run =>
    have hstep {n : Nat} {i : Instr} (hi : MicroOpAt n i) (hn : s.mstep.toNat = n) : step s = exec i (consume s) :=
      step_of_microOpAt hin hbusy (hn ▸ hi)
    obtain ⟨i, hi⟩ := exists_microOpAt hm
    obtain ⟨t, hexec, hstays, hleaves⟩ := MicroOpAt.exec_advances (s := consume s) hbusy hi
    exact ⟨hstep .load, fun idx => hstep (.expand idx), fun i => hstep (.round i), hstep .feedfwd,
      t, (hstep hi rfl).trans hexec, hstays, hleaves⟩

end Sys2Proof.Machine
end

/-! PROOFS. START (43_commands.md): the padding metrics of a message length, the outcomes of a START, and the padding of
a message (45_host_reference.md R281). -/

section
namespace Sys2Proof.Machine

open Sys2Proof

/-! ### The metrics of a length (R222) -/

/-- zero_pad_bits solves the congruence of R222, and is its smallest solution since it is below 512. -/
theorem zeroPadBits_spec (bits : Nat) : zeroPadBits bits < 512 ∧ (bits + 1 + zeroPadBits bits) % 512 = 448 := by
  unfold zeroPadBits
  omega

theorem blockCount_eq (len : Nat) : blockCount len = (len + 8) / 64 + 1 := by
  unfold blockCount totalBits zeroPadBits
  omega

/-- The padded message is a whole number of blocks. -/
theorem totalBits_eq (len : Nat) : totalBits len = 512 * blockCount len := by
  unfold blockCount totalBits zeroPadBits
  omega

/-! ### The latch (R33)

Below 2^61 no number of the latch is cut off. -/

theorem padInfo_zeroPadBits_toNat (len : BitVec 64) :
    (padInfo len).zeroPadBits.toNat = zeroPadBits (8 * len.toNat) :=
  (BitVec.toNat_ofNat ..).trans (Nat.mod_eq_of_lt (zeroPadBits_spec _).1)

section
variable {len : BitVec 64} (hlen : len.toNat < 2 ^ 61)
include hlen

theorem padInfo_dataBits_toNat : (padInfo len).dataBits.toNat = 8 * len.toNat :=
  (BitVec.toNat_ofNat ..).trans (Nat.mod_eq_of_lt (by omega))

theorem padInfo_blockCount_toNat : (padInfo len).blockCount.toNat = (len.toNat + 8) / 64 + 1 := by
  refine (BitVec.toNat_ofNat ..).trans ?_
  rw [blockCount_eq, Nat.mod_eq_of_lt (by omega)]

theorem padInfo_totalBits_toNat : (padInfo len).totalBits.toNat = totalBits len.toNat := by
  refine (BitVec.toNat_ofNat ..).trans (Nat.mod_eq_of_lt ?_)
  rw [totalBits_eq, blockCount_eq]
  omega

/-- BLKCOUNT of a run of this length. -/
theorem setWidth_blockCount_toNat :
    ((padInfo len).blockCount.setWidth 64).toNat = (len.toNat + 8) / 64 + 1 := by
  rw [BitVec.toNat_setWidth_of_le (by decide), padInfo_blockCount_toNat hlen]

end

theorem startRun_of_tooLarge (trace : Bool) {s : State} (hfree : s.phase ≠ .busy) (hlen : 2 ^ 61 ≤ s.msglen.toNat) :
    startRun trace s = startFail .msgTooLarge s := by
  rw [startRun, if_neg hfree, if_pos hlen]

/-- Settles O26: below 2^61 number by number, from 2^61 on by the failure of START. -/
theorem paddingMetrics : Obligations.PaddingMetrics := by
  refine fun len => ⟨fun hlen => ?metrics, fun hlen s hfree hs => ?failed⟩
  case metrics =>
    obtain ⟨hpad, hcongr⟩ := zeroPadBits_spec (8 * len.toNat)
    have htotal := totalBits_eq len.toNat
    simp only [padInfo_dataBits_toNat hlen, padInfo_zeroPadBits_toNat, padInfo_blockCount_toNat hlen,
      padInfo_totalBits_toNat hlen, ← blockCount_eq]
    exact ⟨trivial, by omega, hcongr, rfl, by omega, by omega, trivial⟩
  case failed =>
    have hstart (trace : Bool) := startRun_of_tooLarge trace hfree (hs ▸ hlen)
    exact ⟨⟨_, (exec_start s).trans (congrArg _ (hstart false)), rfl, rfl⟩,
      ⟨_, (exec_startT s).trans (congrArg _ (hstart true)), rfl, rfl⟩⟩

/-! ### The outcomes of START (R216, R221, R223) -/

theorem startRun_of_overCapacity {s : State} (hfree : s.phase ≠ .busy) (hlen : s.msglen.toNat < 2 ^ 61)
    (hcap : s.cfg.traceCap < (s.msglen.toNat + 8) / 64 + 1) : startRun true s = startFail .traceCapacity s := by
  rw [startRun, if_neg hfree, if_neg (by omega), if_pos ⟨rfl, by rwa [padInfo_blockCount_toNat hlen]⟩]

theorem startRun_of_fits {trace : Bool} {s : State} (hfree : s.phase ≠ .busy) (hlen : s.msglen.toNat < 2 ^ 61)
    (hcap : trace = true → (s.msglen.toNat + 8) / 64 + 1 ≤ s.cfg.traceCap) :
    startRun trace s = openRun trace (padInfo s.msglen) s := by
  rw [startRun, if_neg hfree, if_neg (by omega), if_neg]
  rintro ⟨htrace, hover⟩
  rw [padInfo_blockCount_toNat hlen] at hover
  exact absurd (hcap htrace) (by omega)

/-- Settles O25: the four outcomes of `startRun`; BLKCOUNT takes block_count, which fits its 64 bits. -/
theorem startOutcomes : Obligations.StartOutcomes := by
  intro s trace
  have hexec := exec_startInstr trace s
  refine ⟨fun hbusy => ?busy, fun hfree hlen => ?tooLarge, fun hfree hlen htrace hcap => ?overCapacity,
    fun hfree hlen hcap => ?opened⟩
  case busy => exact hexec.trans (congrArg _ (startRun_of_busy trace hbusy))
  case tooLarge => exact hexec.trans (congrArg _ (startRun_of_tooLarge trace hfree hlen))
  case overCapacity =>
    subst htrace
    exact hexec.trans (congrArg _ (startRun_of_overCapacity hfree hlen hcap))
  case opened =>
    have hcount : (padInfo s.msglen).blockCount.setWidth 64 = BitVec.ofNat 64 ((s.msglen.toNat + 8) / 64 + 1) := by
      rw [← setWidth_blockCount_toNat hlen, BitVec.ofNat_toNat, BitVec.setWidth_eq]
    rw [← hcount]
    exact hexec.trans (congrArg _ (startRun_of_fits hfree hlen hcap))

/-! ### Pad(M) (R281) -/

theorem be64_getElem? (n : BitVec 64) {j : Nat} (hj : j < 8) :
    (be64 n)[j]? = some (n.extractLsb' (8 * (7 - j)) 8) := by
  interval_cases j <;> rfl

@[simp] theorem length_be64 (n : BitVec 64) : (be64 n).length = 8 := rfl

/-- Settles O50: the zero bytes fill the last block up to the eight bytes of the length. -/
theorem paddedMessage : Obligations.PaddedMessage := by
  intro msg
  refine ⟨fun hlen => if_neg (by omega), fun hlen => ?_⟩
  set z := (zeroPadBits (8 * msg.length) - 7) / 8 with hz
  set body := msg ++ [0x80#8] ++ List.replicate z 0x00#8 with hbody
  set last := be64 (BitVec.ofNat 64 (8 * msg.length)) with hlast
  have hbodyLength : body.length + 8 = 64 * ((msg.length + 8) / 64 + 1) := by
    have hparts : body.length = msg.length + (z + 1) := by simp [hbody]
    obtain ⟨-, hcongr⟩ := zeroPadBits_spec (8 * msg.length)
    have htotal := totalBits_eq msg.length
    rw [blockCount_eq, totalBits] at htotal
    omega
  have hlength : (body ++ last).length - 8 = body.length := by simp [hlast]
  refine ⟨body ++ last, z, if_pos hlen, ?length, ?shape, fun j hj => ?bytes⟩
  case length => rw [List.length_append, ← hbodyLength]; rfl
  case shape => rw [hlength, List.drop_left]
  case bytes =>
    have hread : (body ++ last)[(body ++ last).length - 8 + j]? = last[j]? := by
      rw [hlength, List.getElem?_append_right (by omega), Nat.add_sub_cancel_left]
    refine ⟨_, hread.trans (be64_getElem? _ hj), ?_⟩
    rw [BitVec.extractLsb'_toNat, Nat.shiftRight_eq_div_pow, BitVec.toNat_ofNat,
      Nat.mod_eq_of_lt (a := 8 * _) (by omega)]

end Sys2Proof.Machine
end

/-! PROOFS. The invariant of the state (10_state.md R28, R29, R33, R46, 44_trace.md R250): the resets establish it,
every step keeps it, and from it every event has a step. -/

section
namespace Sys2Proof.Machine

open Sys2Proof

/-! ### What a step can do -/

/-- A step that answers a next state has an effect of the instruction it runs, a micro-op at its own MSTEP only; or it
takes the reset input, or waits. -/
theorem step_effect {s t : State} (h : step s = .next t) :
    (∃ i, fetch s = .run i ∧ Effect (effective i) (consume s) t ∧
      ((encode (effective i)).format = .u → s.phase = .busy ∧ MicroOpAt s.mstep.toNat (effective i))) ∨
    (∃ d, fetch s = .hardReset d ∧ t = hardReset d (consume s)) ∨
    (fetch s = .wait ∧ t = consume s) := by
  refine (step_next_cases h).imp (fun ⟨i, hfetch, hexec⟩ => ⟨i, hfetch, .of_exec hexec, fun hu => ?_⟩) id
  have hi : i = effective i := eq_of_effective rfl (by rw [hu]; rfl)
  rw [← hi] at hu ⊢
  exact microOpAt_of_fetch hfetch hu

/-! ### States that meet the invariant -/

/-- In IDLE the clauses on a run say nothing. -/
theorem StateInv.of_idle {s : State} (hphase : s.phase = .idle) (hcount : s.blkcount = 0#64) (hdone : s.blkdone = 0#64)
    (htrace : s.traceOn = false) (hmstep : s.mstep = 0#7) (hwf : Trace.wf s.trace = true)
    (hinside : Trace.inside s.cfg.traceCap s.trace = true) : StateInv s where
  idleClear _ := ⟨hcount, hdone, htrace, hmstep⟩
  runOpen h := by simp [hphase] at h
  runDone h := by simp [hphase] at h
  stepZero _ := hmstep
  stepBound := by simp [hmstep]
  countBound := by simp [hcount]
  traceFits h := by simp [htrace] at h
  latchOfRun h := absurd hphase h
  traceWf := hwf
  traceInside := hinside

theorem stateInv_hardReset (d : Draw) (s : State) : StateInv (hardReset d s) :=
  .of_idle rfl rfl rfl rfl rfl (Trace.ofCells_wf _ _) (Trace.ofCells_inside _ _)

theorem stateInv_reset : StateInv State.reset := .of_idle rfl rfl rfl rfl rfl rfl rfl

theorem StateInv.clearControl {s : State} (h : StateInv s) : StateInv (clearControl s) :=
  .of_idle rfl rfl rfl rfl rfl h.traceWf h.traceInside

theorem StateInv.startFail {s : State} (h : StateInv s) (code : ErrCode) : StateInv (startFail code s) :=
  .of_idle rfl rfl rfl rfl rfl h.traceWf h.traceInside

/-- A run that START opens has its first block before it, and one block at least. -/
theorem StateInv.openRun {s : State} (h : StateInv s) {trace : Bool} (hlen : s.msglen.toNat < 2 ^ 61)
    (hcap : trace = true → (padInfo s.msglen).blockCount.toNat ≤ s.cfg.traceCap) :
    StateInv (openRun trace (padInfo s.msglen) s) where
  idleClear hi := by cases hi
  runOpen _ := by
    change (0#64).toNat < ((padInfo s.msglen).blockCount.setWidth 64).toNat
    rw [setWidth_blockCount_toNat hlen]
    exact Nat.succ_pos _
  runDone hd := by cases hd
  stepZero _ := rfl
  stepBound := Nat.zero_le _
  countBound := by
    change ((padInfo s.msglen).blockCount.setWidth 64).toNat ≤ 2 ^ 55 + 1
    rw [setWidth_blockCount_toNat hlen]
    omega
  traceFits htrace := by
    change ((padInfo s.msglen).blockCount.setWidth 64).toNat ≤ s.cfg.traceCap
    rw [BitVec.toNat_setWidth_of_le (by decide)]
    exact hcap htrace
  latchOfRun _ := ⟨rfl, s.msglen, hlen, rfl⟩
  traceWf := h.traceWf
  traceInside := h.traceInside

/-- BLOCK opens the next block of a run. -/
theorem StateInv.openBlock {s : State} (h : StateInv s) (hready : s.phase = .ready) :
    StateInv { s with phase := .busy, mstep := 0#7 } where
  idleClear hi := by cases hi
  runOpen _ := h.runOpen (.inl hready)
  runDone hd := by cases hd
  stepZero _ := rfl
  stepBound := Nat.zero_le _
  countBound := h.countBound
  traceFits := h.traceFits
  latchOfRun _ := h.latchOfRun (by simp [hready])
  traceWf := h.traceWf
  traceInside := h.traceInside

/-- A micro-op that stays BUSY moves MSTEP and records. -/
theorem StateInv.recorded {s : State} (h : StateInv s) (hbusy : s.phase = .busy) {m : BitVec 7} (hm : m.toNat ≤ 113)
    (es : List (TraceAddr × Word)) : StateInv { s with mstep := m, trace := (record es s).trace } where
  idleClear hi := by rw [hbusy] at hi; cases hi
  runOpen := h.runOpen
  runDone := h.runDone
  stepZero hfree := absurd hbusy hfree
  stepBound := hm
  countBound := h.countBound
  traceFits := h.traceFits
  latchOfRun := h.latchOfRun
  traceWf := record_wf es h.traceWf
  traceInside := record_inside es h.traceInside

/-- While BUSY the count of finished blocks has room for one more. -/
theorem StateInv.blkdone_succ_toNat {s : State} (h : StateInv s) (hbusy : s.phase = .busy) :
    (s.blkdone + 1#64).toNat = s.blkdone.toNat + 1 := by
  have hopen := h.runOpen (.inr hbusy)
  exact BitVec.toNat_add_of_lt (show s.blkdone.toNat + 1 < 2 ^ 64 by omega)

/-- FEEDFWD ends the run with the last block, and otherwise leaves a block to do. -/
theorem StateInv.finishBlock {s : State} (h : StateInv s) (hbusy : s.phase = .busy) : StateInv { s with
    blkdone := s.blkdone + 1#64, mstep := 0#7
    phase := if s.blkdone + 1#64 = s.blkcount then .done else .ready } := by
  have hopen := h.runOpen (.inr hbusy)
  have hsucc := h.blkdone_succ_toNat hbusy
  have hrun : s.phase ≠ .idle := by simp [hbusy]
  by_cases hlast : s.blkdone + 1#64 = s.blkcount
  · rw [if_pos hlast]
    exact {
      idleClear hi := by cases hi
      runOpen hr := by simp at hr
      runDone _ := ⟨hlast, by dsimp only; omega⟩
      stepZero _ := rfl
      stepBound := Nat.zero_le _
      countBound := h.countBound
      traceFits := h.traceFits
      latchOfRun _ := h.latchOfRun hrun
      traceWf := h.traceWf
      traceInside := h.traceInside }
  · have hmore : (s.blkdone + 1#64).toNat ≠ s.blkcount.toNat := fun heq => hlast (BitVec.eq_of_toNat_eq heq)
    rw [if_neg hlast]
    exact {
      idleClear hi := by cases hi
      runOpen _ := by dsimp only; omega
      runDone hd := by cases hd
      stepZero _ := rfl
      stepBound := Nat.zero_le _
      countBound := h.countBound
      traceFits := h.traceFits
      latchOfRun _ := h.latchOfRun hrun
      traceWf := h.traceWf
      traceInside := h.traceInside }

theorem StateInv.consumed {s : State} (h : StateInv s) : StateInv (consume s) :=
  h.congr rfl rfl rfl rfl rfl rfl rfl rfl

/-! ### Every step keeps the invariant -/

/-- A micro-op is one of a BUSY sequencer at its own MSTEP; given that, every effect keeps the invariant. -/
theorem StateInv.effect {s t : State} {i : Instr} (h : StateInv s) (heffect : Effect i s t)
    (hmicro : (encode i).format = .u → s.phase = .busy ∧ MicroOpAt s.mstep.toNat i) : StateInv t := by
  cases heffect with
  | none => exact h
  | read | alu | tridx | blk | msglen | refused | illegal | badSequence =>
    exact h.congr rfl rfl rfl rfl rfl rfl rfl rfl
  | startFailed => exact h.startFail _
  | opened _ _ hlen hcap => exact h.openRun hlen hcap
  | block hready => exact h.openBlock hready
  | sreset => exact h.clearControl
  | load =>
    obtain ⟨hbusy, -⟩ := hmicro rfl
    exact (h.recorded hbusy (m := 1#7) (by decide) _).congr rfl rfl rfl rfl rfl rfl rfl rfl
  | expand idx =>
    obtain ⟨hbusy, hat⟩ := hmicro rfl
    have hm := hat.eq_of_expand
    exact (h.recorded hbusy (mstep_succ_le (by omega)) _).congr rfl rfl rfl rfl rfl rfl rfl rfl
  | round i =>
    obtain ⟨hbusy, hat⟩ := hmicro rfl
    have hm := hat.eq_of_round
    exact (h.recorded hbusy (mstep_succ_le (by omega)) _).congr rfl rfl rfl rfl rfl rfl rfl rfl
  | feedfwd =>
    obtain ⟨hbusy, -⟩ := hmicro rfl
    exact (h.finishBlock hbusy).congr rfl rfl rfl rfl rfl rfl rfl rfl

/-- Settles O10: the effects by `StateInv.effect`, the reset input from any state. -/
theorem stepKeepsInvariant : Obligations.StepKeepsInvariant := by
  intro s t h hstep
  rcases step_effect hstep with ⟨i, -, heffect, hmicro⟩ | ⟨d, -, rfl⟩ | ⟨-, rfl⟩
  · exact h.consumed.effect heffect hmicro
  · exact stateInv_hardReset d _
  · exact h.consumed

/-! ### The two resets (R55, R218) -/

/-- Without a traced run no selection is valid (44_trace.md R257). -/
theorem trValid_of_untraced {s : State} (h : s.traceOn = false) : trValid s = false := if_pos (.inl h)

/-- Settles O9: nothing runs after reset, and nothing is traced. -/
theorem resetStateMeetsInvariant : Obligations.ResetStateMeetsInvariant :=
  ⟨stateInv_reset, rfl, rfl, rfl, rfl, rfl, rfl, rfl, tridx_reset, fun _ => trValid_of_untraced rfl⟩

theorem step_of_reset {s : State} {d : Draw} {rest : List Input} (h : s.inputs = .reset d :: rest) :
    step s = .next (hardReset d { s with inputs := rest }) := by
  rw [← consume_of_inputs h]
  simp [step, fetch, h]

/-- Settles O8: the fields of the state that `hardReset` and `clearControl` leave. -/
theorem resetAndSoftReset : Obligations.ResetAndSoftReset := by
  refine ⟨fun s d rest hin => ⟨_, step_of_reset hin, ?reset⟩,
    fun s => ⟨_, exec_sreset s, rfl, fun _ => trValid_of_untraced rfl⟩, fun s => ⟨exec_rdId s, exec_rdCap s⟩⟩
  case reset =>
    exact ⟨rfl, rfl, rfl, rfl, rfl, rfl, rfl, tridx_reset, rfl, rfl, rfl, rfl, rfl, rfl, rfl, rfl,
      fun _ => trValid_of_untraced rfl, rfl, rfl⟩

/-! ### Every event has a step (93_implementation_defined.md) -/

theorem exists_decodeAlu_eq_ok {fn : BitVec 4} (h : fn.toNat < 12) (o : AluIn) : ∃ i, decodeAlu fn o = .ok i := by
  unfold decodeAlu
  interval_cases fn.toNat <;> exact ⟨_, rfl⟩

/-- An event that spells something is not refused, nor is the sequencer's turn at an MSTEP up to 113. -/
theorem fetch_ne_refuse {s : State} (hm : s.mstep.toNat ≤ 113) (he : ∀ e ∈ s.inputs.head?, e.spells s.cfg = true)
    (r : Refusal) : fetch s ≠ .refuse r := by
  have hcore : fetchCore s ≠ .refuse r := by
    rcases fetchCore_cases s with ⟨-, h⟩ | ⟨-, i, -, h⟩ | ⟨hgt, -⟩
    · simp [h]
    · simp [h]
    · omega
  cases hin : s.inputs with
  | nil => rwa [fetch_core (.inl hin)]
  | cons e rest =>
    have he : e.spells s.cfg = true := he e (by simp [hin])
    cases e with
    | core => rwa [fetch_core (.inr ⟨rest, hin⟩)]
    | port code w => simp [fetch_port hin]
    | bus we addr w =>
      obtain ⟨waddr, hw⟩ := Option.isSome_iff_exists.mp he
      simp [fetch_bus hin, fetchBus_of_some hw]
    | reset d => simp [fetch, hin]
    | alu fn o =>
      obtain ⟨i, hi⟩ := exists_decodeAlu_eq_ok (of_decide_eq_true he) o
      simp [fetch_alu hin, fetchCode, decode, hi]

/-- Settles O11: what is fetched is not refused, and no instruction is. -/
theorem everyEventHasAStep : Obligations.EveryEventHasAStep := by
  intro s h he
  cases hfetch : fetch s with
  | run i => exact (exists_exec_next i (consume s)).imp fun t ht => (step_of_run hfetch).trans ht.1
  | hardReset d => exact ⟨_, by simp [step, hfetch]; rfl⟩
  | wait => exact ⟨_, step_of_wait hfetch⟩
  | refuse r => exact absurd hfetch (fetch_ne_refuse h.stepBound he r)

end Sys2Proof.Machine
end

/-! PROOFS. Which instructions write which elements (10_state.md R20, 60_exceptions.md R300): each effect writes its own
few, and the instructions that have it are known. -/

section
namespace Sys2Proof.Machine

open Sys2Proof

/-! ### The instructions that have the effect of a command -/

theorem eq_of_effective_block {i : Instr} (h : effective i = .block) : i = .block ∨ i = .wrCmd 0x00000002#32 :=
  eq_or_eq_wrCmd h rfl

theorem eq_of_effective_sreset {i : Instr} (h : effective i = .sreset) : i = .sreset ∨ i = .wrCmd 0x0000000F#32 :=
  eq_or_eq_wrCmd h rfl

theorem eq_of_effective_start {i : Instr} {trace : Bool} (h : effective i = startInstr trace) :
    i = .start ∨ i = .startT ∨ i = .wrCmd 0x00000001#32 ∨ i = .wrCmd 0x00000011#32 := by
  cases trace with
  | false => rcases eq_or_eq_wrCmd h rfl with rfl | rfl <;> simp [startInstr]
  | true => rcases eq_or_eq_wrCmd h rfl with rfl | rfl <;> simp [startInstr]

theorem eq_of_effective_illegalCmd {i : Instr} {w : Word} (h : effective i = .illegalCmd w) :
    i = .illegalCmd w ∨ i = .wrCmd w ∧ w ∉ legalCommandWords := by
  refine (eq_or_eq_wrCmd h rfl).imp id fun hi => ⟨hi, ?_⟩
  subst hi
  have hwf : (Instr.illegalCmd w).wellFormed = true := h ▸ (encode_decodeCmd w).1
  simpa [Instr.wellFormed] using hwf

theorem eq_of_effective_refused {i : Instr} (h : refusedByBusy (effective i)) :
    (∃ n w, i = .wrBlk n w) ∨ (∃ hi w, i = .wrMsglen hi w) ∨ i = .start ∨ i = .startT ∨ i = .block ∨
      i = .wrCmd 0x00000001#32 ∨ i = .wrCmd 0x00000011#32 ∨ i = .wrCmd 0x00000002#32 := by
  rcases h with ⟨n, w, h⟩ | ⟨hi, w, h⟩ | ⟨trace, h⟩ | h
  · exact .inl ⟨n, w, eq_of_effective h rfl⟩
  · exact .inr (.inl ⟨hi, w, eq_of_effective h rfl⟩)
  · rcases eq_of_effective_start h with h | h | h | h <;> simp [h]
  · rcases eq_of_effective_block h with h | h <;> simp [h]

/-! ### ERR (R300, R305) -/

/-- Settles O29: the effects that write ERR, each with its instructions. -/
theorem errChangesOnlyByErrorsAndClears : Obligations.ErrChangesOnlyByErrorsAndClears := by
  intro i s t hexec herr
  have heffect := Effect.of_exec hexec
  generalize hj : effective i = j at heffect
  cases heffect with
  | refused hbusy hi => exact .inl ⟨hbusy, rfl, eq_of_effective_refused (hj ▸ hi)⟩
  | illegal w =>
    refine .inr (.inl ⟨rfl, ?_⟩)
    exact (eq_of_effective_illegalCmd hj).imp (fun h => ⟨w, h⟩) fun h => ⟨w, h⟩
  | badSequence hphase =>
    refine .inr (.inr (.inl ⟨?_, ?_, rfl, eq_of_effective_block hj⟩)) <;> rcases hphase with h | h <;> simp [h]
  | startFailed hfree trace hcode =>
    exact .inr (.inr (.inr (.inl ⟨hfree, hcode.imp id .inl, eq_of_effective_start hj⟩)))
  | opened hfree => exact .inr (.inr (.inr (.inl ⟨hfree, .inr (.inr rfl), eq_of_effective_start hj⟩)))
  | sreset => exact .inr (.inr (.inr (.inr ⟨rfl, eq_of_effective_sreset hj⟩)))
  | read | alu | none | tridx | blk | msglen | block | load | expand | round | feedfwd => exact absurd rfl herr

/-! ### The data elements and the control elements (R20) -/

/-- Recording changes the storage in a traced run only (44_trace.md R250). -/
theorem traceOn_of_record_ne (es : List (TraceAddr × Word)) (s : State) (h : ¬ (record es s).trace = s.trace) :
    s.traceOn = true := by
  by_contra hoff
  exact h (by rw [record_untraced es s (by simpa using hoff)])

/-- Settles O30: an effect leaves the elements that it does not name as they were. -/
theorem dataElementWriters : Obligations.DataElementWriters := by
  intro i s t hexec
  have heffect := Effect.of_exec hexec
  generalize hj : effective i = j at heffect
  cases heffect with
  | read | alu | none | tridx | msglen | refused | illegal | badSequence | block | startFailed | sreset => simp
  | blk _ n w => simp [eq_of_effective hj rfl]
  | opened => simp [eq_of_effective_start hj]
  | load => simpa [eq_of_effective hj rfl] using traceOn_of_record_ne _ s
  | expand idx => simpa [eq_of_effective hj rfl] using traceOn_of_record_ne _ s
  | round n => simpa [eq_of_effective hj rfl] using traceOn_of_record_ne _ s
  | feedfwd => simp [eq_of_effective hj rfl]

/-- Settles O31: as for the data elements; a read has a format-B code with WE = 0, an ALU function one of format F. -/
theorem controlElementWriters : Obligations.ControlElementWriters := by
  intro i s t hexec
  have heffect := Effect.of_exec hexec
  generalize hj : effective i = j at heffect
  cases heffect with
  | read x hformat hwe =>
    rw [eq_of_effective hj (by rw [hformat]; rfl)]
    simp [hformat, hwe]
  | alu x hformat =>
    rw [eq_of_effective hj (by rw [hformat]; rfl)]
    simp [hformat]
  | none | blk | refused | illegal | badSequence => simp
  | tridx w => simp [eq_of_effective hj rfl]
  | msglen _ hi w => simp [eq_of_effective hj rfl]
  | block => simp [eq_of_effective_block hj]
  | startFailed | opened => simp [eq_of_effective_start hj]
  | sreset => simp [eq_of_effective_sreset hj]
  | load | expand | round | feedfwd => simp [eq_of_effective hj rfl]

end Sys2Proof.Machine
end

/-! PROOFS. The trace as the host reads it (44_trace.md sections 2 and 3): which selections are valid, what they read,
where they lie, and that a valid one keeps its value until the run ends. -/

section
namespace Sys2Proof.Machine

open Sys2Proof

/-! ### What a selection names (R252, R256) -/

theorem TrIdx.sect_cases (x : TrIdx) : x.sect = 0#2 ∨ x.sect = 1#2 ∨ x.sect = 2#2 ∨ x.sect = 3#2 := by
  have hall : ∀ sect : BitVec 2, sect = 0#2 ∨ sect = 1#2 ∨ sect = 2#2 ∨ sect = 3#2 := by decide
  exact hall x.sect

theorem TrIdx.addr?_of_initial {x : TrIdx} (hsect : x.sect = 1#2) {t : Fin 16} (ht : t.val = x.index.toNat) :
    x.addr? = some (.initial t) := by
  simp [TrIdx.addr?, hsect, ← ht]

theorem TrIdx.addr?_of_sched {x : TrIdx} (hsect : x.sect = 2#2) {t : Fin 64} (ht : t.val = x.index.toNat) :
    x.addr? = some (.sched t) := by
  simp [TrIdx.addr?, hsect, ← ht]

theorem TrIdx.addr?_of_round {x : TrIdx} (hsect : x.sect = 3#2) {i : Fin 64} {f : Fin 13} (hi : i.val = x.index.toNat)
    (hf : f.val = x.field.toNat) : x.addr? = some (.round i f) := by
  simp [TrIdx.addr?, hsect, ← hi, ← hf]

/-- A selection outside section 0 names no entry when its INDEX or FIELD is out of range, and otherwise one whose
estep R256 reads off SECT and INDEX. -/
theorem TrIdx.addr?_cases {x : TrIdx} (h0 : x.sect ≠ 0#2) :
    (((x.sect = 1#2 ∧ x.index.toNat > 15) ∨ (x.sect = 3#2 ∧ x.field.toNat > 12)) ∧ x.addr? = none) ∨
    (¬ (x.sect = 1#2 ∧ x.index.toNat > 15) ∧ ¬ (x.sect = 3#2 ∧ x.field.toNat > 12) ∧ ∃ a, x.addr? = some a ∧
      a.estep = if x.sect = 1#2 then 0
        else if x.sect = 2#2 then (if x.index.toNat < 16 then 0 else x.index.toNat - 15) else 49 + x.index.toNat) := by
  have hindex : x.index.toNat < 64 := x.index.isLt
  rcases x.sect_cases with hsect | hsect | hsect | hsect
  · exact absurd hsect h0
  · by_cases hin : x.index.toNat < 16
    · exact .inr ⟨by omega, by simp [hsect], _, addr?_of_initial hsect (t := ⟨_, hin⟩) rfl,
        by simp [hsect, TraceAddr.estep]⟩
    · exact .inl ⟨.inl ⟨hsect, by omega⟩, by simp [TrIdx.addr?, hsect, hin]⟩
  · exact .inr ⟨by simp [hsect], by simp [hsect], _, addr?_of_sched hsect (t := ⟨_, hindex⟩) rfl,
      by simp [hsect, TraceAddr.estep]⟩
  · by_cases hin : x.field.toNat < 13
    · exact .inr ⟨by simp [hsect], by omega, _, addr?_of_round hsect (i := ⟨_, hindex⟩) (f := ⟨_, hin⟩) rfl rfl,
        by simp [hsect, TraceAddr.estep]⟩
    · exact .inl ⟨.inr ⟨hsect, by omega⟩, by simp [TrIdx.addr?, hsect, hin]⟩

/-! ### The valid predicate (R257) -/

theorem trValid_of_no_run {s : State} (h : s.traceOn = false ∨ s.phase = .idle) : trValid s = false := if_pos h

theorem trValid_of_no_entry {s : State} (hsect : s.tridx.sect ≠ 0#2) (ha : s.tridx.addr? = none) :
    trValid s = false := by
  simp [trValid, hsect, ha]

/-- In a traced run a selection that names an entry is valid if its block is finished, or in progress and past the
entry's micro-step. -/
theorem trValid_of_entry {s : State} {a : TraceAddr} (hrun : ¬ (s.traceOn = false ∨ s.phase = .idle))
    (hsect : s.tridx.sect ≠ 0#2) (ha : s.tridx.addr? = some a) : trValid s =
      if s.tridx.block.toNat < s.blkdone.toNat then true
      else if s.tridx.block.toNat = s.blkdone.toNat ∧ s.phase = .busy then decide (a.estep < s.mstep.toNat)
      else false := by
  rw [trValid, if_neg hrun, if_neg hsect, ha]

/-- The entry (b, a) has been written in the run. -/
def Written (s : State) (b : Nat) (a : TraceAddr) : Prop :=
  b < s.blkdone.toNat ∨ (b = s.blkdone.toNat ∧ s.phase = .busy ∧ a.estep < s.mstep.toNat)

/-- In a traced run a selection is valid if it is an item of section 0 or names an entry that has been written. -/
theorem trValid_iff (s : State) : trValid s = true ↔ s.traceOn = true ∧ s.phase ≠ .idle ∧
    (s.tridx.sect = 0#2 ∧ s.tridx.index.toNat ≤ 9 ∨
      s.tridx.sect ≠ 0#2 ∧ ∃ a, s.tridx.addr? = some a ∧ Written s s.tridx.block.toNat a) := by
  by_cases hrun : s.traceOn = false ∨ s.phase = .idle
  · rw [trValid_of_no_run hrun]
    rcases hrun with h | h <;> simp [h]
  · obtain ⟨hon, hphase⟩ : s.traceOn = true ∧ s.phase ≠ .idle := by simpa using hrun
    by_cases hsect : s.tridx.sect = 0#2
    · simp [trValid_section0 hon hphase hsect, hon, hphase, hsect]
    · cases ha : s.tridx.addr? with
      | none => simp [trValid_of_no_entry hsect ha, hsect]
      | some a =>
        rw [trValid_of_entry hrun hsect ha]
        split_ifs <;> simp_all [Written]

/-! ### TRDATA (R258) -/

theorem trEntry_of_addr? {s : State} (hsect : s.tridx.sect ≠ 0#2) {a : TraceAddr} (ha : s.tridx.addr? = some a) :
    trEntry s = Trace.read s.trace s.tridx.block.toNat a := by
  rw [trEntry, if_neg hsect, ha]

theorem trData_of_not_trValid {s : State} (h : trValid s = false) : trData s = 0#32 := by
  rw [trData, h]; rfl

/-- Settles O19: the predicate by the sections and ranges of the selection, the word by the entry it names. -/
theorem traceDataRead : Obligations.TraceDataRead := by
  intro s
  refine ⟨?valid, trData s, exec_rdTrdata s, trData_of_not_trValid, fun hv hsect => ?item,
    fun hv hsect t ht => ?initial, fun hv hsect t ht => ?sched, fun hv hsect i f hi hf => ?round⟩
  case valid =>
    by_cases hrun : s.traceOn = false ∨ s.phase = .idle
    · rw [trValid_of_no_run hrun, if_pos hrun]
    · by_cases hsect : s.tridx.sect = 0#2
      · obtain ⟨hon, hphase⟩ : s.traceOn = true ∧ s.phase ≠ .idle := by simpa using hrun
        rw [trValid_section0 hon hphase hsect, if_neg hrun, if_pos hsect]
      · rw [if_neg hrun, if_neg hsect]
        rcases TrIdx.addr?_cases hsect with ⟨hout, hnone⟩ | ⟨hindex, hfield, a, ha, hestep⟩
        · rw [trValid_of_no_entry hsect hnone]
          rcases hout with h | h <;> simp [h]
        · rw [trValid_of_entry hrun hsect ha, if_neg hindex, if_neg hfield, hestep]
  case item => rw [trData_of_trValid hv, trEntry_section0 hsect]
  case initial => rw [trData_of_trValid hv, trEntry_of_addr? (by simp [hsect]) (TrIdx.addr?_of_initial hsect ht)]
  case sched => rw [trData_of_trValid hv, trEntry_of_addr? (by simp [hsect]) (TrIdx.addr?_of_sched hsect ht)]
  case round => rw [trData_of_trValid hv, trEntry_of_addr? (by simp [hsect]) (TrIdx.addr?_of_round hsect hi hf)]

/-! ### Where valid entries lie (R250, R257) -/

theorem StateInv.blkdone_le {s : State} (h : StateInv s) : s.blkdone.toNat ≤ s.blkcount.toNat := by
  cases hphase : s.phase with
  | idle =>
    obtain ⟨-, hdone, -⟩ := h.idleClear hphase
    simp [hdone]
  | ready => exact (h.runOpen (.inl hphase)).le
  | busy => exact (h.runOpen (.inr hphase)).le
  | done => exact (congrArg BitVec.toNat (h.runDone hphase).1).le

/-- The block in progress is one of the run's, so a written entry has a record. -/
theorem StateInv.lt_traceCap_of_written {s : State} (h : StateInv s) (hon : s.traceOn = true) {b : Nat} {a : TraceAddr}
    (hw : Written s b a) : b < s.cfg.traceCap := by
  have hfits := h.traceFits hon
  rcases hw with hlt | ⟨rfl, hbusy, -⟩
  · have := h.blkdone_le
    omega
  · have := h.runOpen (.inr hbusy)
    omega

/-- Settles O42: what is valid outside section 0 names a written entry. -/
theorem validEntriesLieInside : Obligations.ValidEntriesLieInside := by
  intro s h hv hsect
  obtain ⟨hon, -, ⟨h0, -⟩ | ⟨-, a, ha, hw⟩⟩ := (trValid_iff s).mp hv
  · exact absurd h0 hsect
  · refine ⟨h.lt_traceCap_of_written hon hw, a, ha, ?_⟩
    rw [exec_rdTrdata, trData_of_trValid hv, trEntry_of_addr? hsect ha]
    rfl

/-- A selection of the entry (b, a). -/
def TrIdx.ofEntry (b : Nat) : TraceAddr → TrIdx
  | .initial t => { block := BitVec.ofNat 16 b, field := 0#4, sect := 1#2, index := BitVec.ofNat 6 t.val }
  | .sched t   => { block := BitVec.ofNat 16 b, field := 0#4, sect := 2#2, index := BitVec.ofNat 6 t.val }
  | .round i f =>
    { block := BitVec.ofNat 16 b, field := BitVec.ofNat 4 f.val, sect := 3#2, index := BitVec.ofNat 6 i.val }

theorem TrIdx.addr?_ofEntry (b : Nat) (a : TraceAddr) :
    (TrIdx.ofEntry b a).addr? = some a ∧ (TrIdx.ofEntry b a).sect ≠ 0#2 := by
  have hval {n w : Nat} (x : Fin n) (hn : n ≤ 2 ^ w) : x.val = (BitVec.ofNat w x.val).toNat := by
    rw [BitVec.toNat_ofNat, Nat.mod_eq_of_lt (by omega)]
  cases a with
  | initial t => exact ⟨addr?_of_initial rfl (hval t (by decide)), by simp [ofEntry]⟩
  | sched t => exact ⟨addr?_of_sched rfl (hval t (by decide)), by simp [ofEntry]⟩
  | round i f => exact ⟨addr?_of_round rfl (hval i (by decide)) (hval f (by decide)), by simp [ofEntry]⟩

theorem TrIdx.block_ofEntry {b : Nat} (hb : b < 65536) (a : TraceAddr) : (TrIdx.ofEntry b a).block.toNat = b := by
  have hval : (BitVec.ofNat 16 b).toNat = b := by rw [BitVec.toNat_ofNat, Nat.mod_eq_of_lt hb]
  cases a <;> exact hval

theorem Config.traceCap_le (c : Config) : c.traceCap ≤ 65536 := c.traceCapPred.isLt

/-- Settles O41: in DONE every block of the run lies below BLKDONE. -/
theorem doneTraceIsComplete : Obligations.DoneTraceIsComplete := by
  intro s h hdone hon b hb a
  have hfits := h.traceFits hon
  have hcap := Config.traceCap_le s.cfg
  have hblock : (TrIdx.ofEntry b a).block.toNat = b := TrIdx.block_ofEntry (by omega) a
  obtain ⟨haddr, hsect⟩ := TrIdx.addr?_ofEntry b a
  have hbelow : (TrIdx.ofEntry b a).block.toNat < s.blkdone.toNat := by rwa [hblock, (h.runDone hdone).1]
  exact ⟨TrIdx.ofEntry b a, hblock, haddr,
    (trValid_iff _).mpr ⟨hon, by simp [hdone], .inr ⟨hsect, a, haddr, .inl hbelow⟩⟩⟩

/-! ### Valid entries keep their values (R259) -/

/-- What a step that does not end the run keeps for a host that reads the trace. -/
structure TraceKept (s t : State) : Prop where
  traceOn : t.traceOn = s.traceOn
  phase   : s.phase ≠ .idle → t.phase ≠ .idle
  padinfo : t.padinfo = s.padinfo
  entries : ∀ b a, Written s b a → Written t b a ∧ Trace.read t.trace b a = Trace.read s.trace b a

theorem TraceKept.of_eq {s t : State} (hon : t.traceOn = s.traceOn) (hphase : t.phase = s.phase)
    (hpad : t.padinfo = s.padinfo) (hdone : t.blkdone = s.blkdone) (hm : t.mstep = s.mstep) (htr : t.trace = s.trace) :
    TraceKept s t where
  traceOn := hon
  phase := by rw [hphase]; exact id
  padinfo := hpad
  entries b a hw := by simpa only [Written, hphase, hdone, hm, htr, and_true] using hw

theorem TraceKept.of_consume {s t : State} (h : TraceKept (consume s) t) : TraceKept s t :=
  ⟨h.traceOn, h.phase, h.padinfo, h.entries⟩

/-- BLOCK starts on a block of which nothing has been written. -/
theorem traceKept_openBlock {s : State} (hready : s.phase = .ready) :
    TraceKept s { s with phase := .busy, mstep := 0#7 } where
  traceOn := rfl
  phase _ := by simp
  padinfo := rfl
  entries b a hw := by
    rcases hw with hlt | ⟨-, hbusy, -⟩
    · exact ⟨.inl hlt, rfl⟩
    · rw [hready] at hbusy; cases hbusy

/-- A micro-op that records the entries of its own MSTEP, none of which had been written, and advances MSTEP. -/
theorem TraceKept.of_record {s t : State} {es : List (TraceAddr × Word)}
    (hes : ∀ e ∈ es, e.1.estep = s.mstep.toNat) (hon : t.traceOn = s.traceOn) (hphase : t.phase = .busy)
    (hpad : t.padinfo = s.padinfo) (hdone : t.blkdone = s.blkdone) (hm : s.mstep.toNat ≤ t.mstep.toNat)
    (htr : t.trace = (record es s).trace) : TraceKept s t where
  traceOn := hon
  phase _ := by simp [hphase]
  padinfo := hpad
  entries b a hw := by
    rw [htr, Written, hdone, hphase]
    refine ⟨hw.imp id fun ⟨hb, _, hlt⟩ => ⟨hb, rfl, hlt.trans_le hm⟩, record_read_other es s (hw.imp (by omega) ?_)⟩
    rintro ⟨-, -, hlt⟩ e he rfl
    have := hes e he
    omega

/-- FEEDFWD moves the block in progress, all of which has been written, to the finished ones. -/
theorem traceKept_finishBlock {s : State} (h : StateInv s) (hbusy : s.phase = .busy) (hash : Vector Word 8) :
    TraceKept s { s with
      hash := hash, blkdone := s.blkdone + 1#64, mstep := 0#7
      phase := if s.blkdone + 1#64 = s.blkcount then .done else .ready } where
  traceOn := rfl
  phase _ := by dsimp only; split <;> simp
  padinfo := rfl
  entries b a hw := by
    refine ⟨.inl ?_, rfl⟩
    dsimp only
    rw [h.blkdone_succ_toNat hbusy]
    rcases hw with hlt | ⟨heq, -⟩ <;> omega

theorem le_mstep_succ {m : BitVec 7} (h : m.toNat < 113) : m.toNat ≤ (m + 1#7).toNat := by
  rw [mstep_succ_toNat h]
  exact Nat.le_succ _

theorem loadEntries_estep (blk : Vector Word 16) : ∀ e ∈ loadEntries blk, e.1.estep = 0 := by
  intro e he
  obtain ⟨t, rfl | rfl⟩ := (mem_loadEntries blk e).mp he <;> simp [TraceAddr.estep]

theorem expandEntry_estep : ∀ idx : Fin 48, (TraceAddr.sched (Fin.ofNat 64 (idx.val + 16))).estep = idx.val + 1 := by
  decide

theorem roundEntriesOf_estep (i : Fin 64) (s : State) : ∀ e ∈ roundEntriesOf i s, e.1.estep = i.val + 49 := by
  intro e he
  obtain ⟨f, rfl⟩ := (mem_roundEntries ..).mp he
  exact Nat.add_comm _ _

/-- Every effect but a reset and a START keeps the trace of the run. -/
theorem TraceKept.of_effect {s t : State} {i : Instr} (h : StateInv s) (heffect : Effect i s t)
    (hmicro : (encode i).format = .u → s.phase = .busy ∧ MicroOpAt s.mstep.toNat i) (hreset : i ≠ .sreset)
    (hstart : s.phase ≠ .busy → ∀ trace, i ≠ startInstr trace) : TraceKept s t := by
  cases heffect with
  | none | read | alu | tridx | blk | msglen | refused | illegal | badSequence => exact .of_eq rfl rfl rfl rfl rfl rfl
  | startFailed hfree trace => exact absurd rfl (hstart hfree trace)
  | opened hfree trace => exact absurd rfl (hstart hfree trace)
  | block hready => exact traceKept_openBlock hready
  | sreset => exact absurd rfl hreset
  | load =>
    obtain ⟨hbusy, hat⟩ := hmicro rfl
    have hm := hat.eq_of_load
    exact .of_record (hm ▸ loadEntries_estep s.blk) rfl hbusy rfl rfl (by rw [hm]; exact Nat.zero_le _) rfl
  | expand idx =>
    obtain ⟨hbusy, hat⟩ := hmicro rfl
    have hm := hat.eq_of_expand
    have hes : ∀ e ∈ [(TraceAddr.sched (Fin.ofNat 64 (idx.val + 16)), expandWord s.w idx)],
        e.1.estep = s.mstep.toNat := by
      simpa [hm] using expandEntry_estep idx
    exact .of_record hes rfl hbusy rfl rfl (le_mstep_succ (by omega)) rfl
  | round i =>
    obtain ⟨hbusy, hat⟩ := hmicro rfl
    have hm := hat.eq_of_round
    exact .of_record (hm ▸ roundEntriesOf_estep i s) rfl hbusy rfl rfl (le_mstep_succ (by omega)) rfl
  | feedfwd => exact traceKept_finishBlock h (hmicro rfl).1 _

theorem TraceKept.valid {s t : State} (h : TraceKept s t) {x : TrIdx} (hv : trValid { s with tridx := x } = true) :
    trValid { t with tridx := x } = true ∧ trData { t with tridx := x } = trData { s with tridx := x } := by
  obtain ⟨hon, hphase, hsel⟩ := (trValid_iff _).mp hv
  have hv' : trValid { t with tridx := x } = true := (trValid_iff _).mpr ⟨h.traceOn.trans hon, h.phase hphase,
    hsel.imp id fun ⟨hsect, a, ha, hw⟩ => ⟨hsect, a, ha, (h.entries _ a hw).1⟩⟩
  have hentry : trEntry { t with tridx := x } = trEntry { s with tridx := x } := by
    rcases hsel with ⟨hsect, -⟩ | ⟨hsect, a, ha, hw⟩
    · calc trEntry { t with tridx := x }
        _ = t.padinfo.item x.index.toNat := trEntry_section0 hsect
        _ = s.padinfo.item x.index.toNat := by rw [h.padinfo]
        _ = trEntry { s with tridx := x } := (trEntry_section0 hsect).symm
    · calc trEntry { t with tridx := x }
        _ = Trace.read t.trace x.block.toNat a := trEntry_of_addr? (s := { t with tridx := x }) hsect ha
        _ = Trace.read s.trace x.block.toNat a := (h.entries _ a hw).2
        _ = trEntry { s with tridx := x } := (trEntry_of_addr? hsect ha).symm
  exact ⟨hv', (trData_of_trValid hv').trans (hentry.trans (trData_of_trValid hv).symm)⟩

/-- Settles O40: an instruction with the effect of SRESET or of an accepted START is one of those excluded. -/
theorem validEntriesAreImmutable : Obligations.ValidEntriesAreImmutable := by
  intro s t x h hstep hv hreset hsreset hwrSreset hstart
  suffices hkept : TraceKept (consume s) t from hkept.of_consume.valid hv
  rcases step_effect hstep with ⟨i, hfetch, heffect, hmicro⟩ | ⟨d, hfetch, -⟩ | ⟨-, rfl⟩
  · refine .of_effect h.consumed heffect hmicro (fun hi => ?_) fun hfree trace hi => ?_
    · rcases eq_of_effective_sreset hi with rfl | rfl
      · exact hsreset hfetch
      · exact hwrSreset hfetch
    · obtain ⟨h1, h2, h3, h4⟩ := hstart hfree
      rcases eq_of_effective_start hi with rfl | rfl | rfl | rfl
      · exact h1 hfetch
      · exact h2 hfetch
      · exact h3 hfetch
      · exact h4 hfetch
  · exact absurd hfetch (hreset d)
  · exact .of_eq rfl rfl rfl rfl rfl rfl

end Sys2Proof.Machine
end

/-! PROOFS. A block in progress (41_schedule.md, 42_compress.md): what it has computed is kept by every step, and after
its 114 micro-steps HASH holds the compression of the block. -/

section
namespace Sys2Proof.Machine

open Sys2Proof

/-! ### What a micro-op adds to a block in progress -/

theorem length_kTable : kTable.length = 64 := rfl

/-- The constant and the schedule word of round i. -/
theorem zip_kTable_getElem? (w : Vector Word 64) (i : Fin 64) :
    (kTable.zip w.toList)[i.val]? = some (k i, w[i]) := by
  have hk : kTable[i.val]? = some (k i) := by
    have hi : i.val < kTable.length := by rw [length_kTable]; exact i.isLt
    rw [k, List.getD_eq_getElem _ _ hi, List.getElem?_eq_getElem hi]
  have hw : w.toList[i.val]? = some w[i] := by simp
  rw [List.getElem?_zip_eq_some]
  exact ⟨hk, hw⟩

/-- LOAD puts the block in W[0..15] and HASH in the working registers. -/
theorem blockInv_load {s t : State} (hm : t.mstep = 1#7) (hw : t.w = loadSchedule s.blk s.w) (hv : t.v = t.hash)
    (hblk : t.blk = s.blk) : BlockInv t where
  loaded _ _ i := by rw [hw, hblk]; exact loadSchedule_low s.blk s.w i
  expanded _ n hn := by rw [hm] at hn; simp at hn
  rounds _ _ := by rw [hm, hv]; rfl

/-- EXPAND n + 16 adds the word of the recurrence; the words before it stay. -/
theorem BlockInv.expand {s : State} (h : BlockInv s) (hbusy : s.phase = .busy) {idx : Fin 48}
    (hm : s.mstep.toNat = idx.val + 1) (tr : List TraceCell) : BlockInv { s with
      w := s.w.set (idx.val + 16) (expandWord s.w idx), mstep := s.mstep + 1#7, trace := tr } := by
  have hnext : (s.mstep + 1#7).toNat = idx.val + 2 := by rw [mstep_succ_toNat (by omega), hm]
  have hkeep {j : Nat} (hj : j < 64) (hlt : j < idx.val + 16) :
      (s.w.set (idx.val + 16) (expandWord s.w idx))[j] = s.w[j] := Vector.getElem_set_ne _ _ (by omega)
  constructor
  case loaded =>
    intro _ _ t
    dsimp only
    rw [hkeep (by omega) (by omega)]
    exact h.loaded hbusy (by omega) t
  case expanded =>
    intro _ n hn
    dsimp only at hn ⊢
    rw [hnext] at hn
    rw [hkeep (j := n.val + 14) (by omega) (by omega), hkeep (j := n.val + 9) (by omega) (by omega),
      hkeep (j := n.val + 1) (by omega) (by omega), hkeep (j := n.val) (by omega) (by omega)]
    rcases Nat.lt_or_ge n.val idx.val with hlt | hge
    · rw [hkeep (by omega) (by omega)]
      exact h.expanded hbusy n (by omega)
    · obtain rfl : n = idx := Fin.ext (by omega)
      rw [Vector.getElem_set_self, expandWord, add32_four]
  case rounds =>
    intro _ _
    have hnone : s.mstep.toNat - 49 = 0 ∧ (s.mstep + 1#7).toNat - 49 = 0 := by omega
    have hv := h.rounds hbusy (by omega)
    dsimp only
    rw [hnone.2]
    rw [hnone.1] at hv
    exact hv

/-- ROUND i is the next of the rounds. -/
theorem BlockInv.round {s : State} (h : BlockInv s) (hbusy : s.phase = .busy) {i : Fin 64}
    (hm : s.mstep.toNat = i.val + 49) (t1 t2 : Word) (tr : List TraceCell) : BlockInv { s with
      v := roundRegsOf i s, t1 := t1, t2 := t2, mstep := s.mstep + 1#7, trace := tr } where
  loaded _ _ := h.loaded hbusy (by omega)
  expanded _ n _ := h.expanded hbusy n (by omega)
  rounds _ _ := by
    have hdone : s.mstep.toNat - 49 = i.val ∧ (s.mstep + 1#7).toNat - 49 = i.val + 1 := by
      rw [mstep_succ_toNat (by omega)]
      omega
    have hv := h.rounds hbusy (by omega)
    rw [hdone.1] at hv
    dsimp only
    rw [hdone.2, List.take_add_one, zip_kTable_getElem?, Option.toList_some, List.foldl_concat, ← hv]
    rfl

/-- A micro-op is one of a BUSY sequencer at its own MSTEP; given that, every effect keeps the invariant of a block. -/
theorem BlockInv.effect {s t : State} {i : Instr} (h : BlockInv s) (heffect : Effect i s t)
    (hmicro : (encode i).format = .u → s.phase = .busy ∧ MicroOpAt s.mstep.toNat i) : BlockInv t := by
  cases heffect with
  | none => exact h
  | read | alu | tridx | msglen | refused | illegal | badSequence => exact h.congr rfl rfl (fun _ => rfl) rfl rfl rfl
  | blk hfree => exact .of_not_busy hfree
  | startFailed | opened | sreset => exact .of_not_busy (by simp)
  | block => exact .of_mstep_zero rfl
  | load => exact blockInv_load (s := s) rfl rfl rfl rfl
  | expand => exact h.expand (hmicro rfl).1 (hmicro rfl).2.eq_of_expand _
  | round => exact h.round (hmicro rfl).1 (hmicro rfl).2.eq_of_round _ _ _
  | feedfwd => exact .of_not_busy (by dsimp only; split <;> simp)

theorem BlockInv.consumed {s : State} (h : BlockInv s) : BlockInv (consume s) :=
  h.congr rfl rfl (fun _ => rfl) rfl rfl rfl

/-- Settles O52: the effects by `BlockInv.effect`; after the reset input no block is in progress. -/
theorem stepKeepsBlockInvariant : Obligations.StepKeepsBlockInvariant := by
  intro s t h hstep
  rcases step_effect hstep with ⟨i, -, heffect, hmicro⟩ | ⟨d, -, rfl⟩ | ⟨-, rfl⟩
  · exact h.consumed.effect heffect hmicro
  · exact .of_not_busy (by simp)
  · exact h.consumed

/-- Settles O53: after reset the block is IDLE. -/
theorem resetStateMeetsBlockInvariant : Obligations.ResetStateMeetsBlockInvariant :=
  .of_not_busy (by simp [State.reset])

/-! ### The schedule file is Sched(BLK) (R160) -/

theorem add_four_toNat (a b c d : Word) :
    (a + b + c + d).toNat = (a.toNat + b.toNat + c.toNat + d.toNat) % 2 ^ 32 := by
  rw [← add32_four, add32_toNat]
  simp [Nat.add_assoc]

/-- The first 16 words and the recurrence determine the schedule. -/
theorem toList_eq_schedOf {w : Vector Word 64} {blk : Vector Word 16} (hlow : ∀ t : Fin 16, w[t.val] = blk[t])
    (hrec : ∀ n : Fin 48, w[n.val + 16] = ssig1 w[n.val + 14] + w[n.val + 9] + ssig0 w[n.val + 1] + w[n.val]) :
    w.toList = schedOf blk := by
  obtain ⟨hlength, hfirst, hnext⟩ := scheduleRecurrence blk
  have hword : ∀ t, (ht : t < 64) → (schedOf blk)[t]? = some w[t] := by
    intro t
    induction t using Nat.strong_induction_on with
    | _ t ih =>
      intro ht
      rcases Nat.lt_or_ge t 16 with hlt | hge
      · rw [hlow ⟨t, hlt⟩]
        exact hfirst ⟨t, hlt⟩
      · obtain ⟨n, hn, rfl⟩ : ∃ n < 48, t = n + 16 := ⟨t - 16, by omega, by omega⟩
        obtain ⟨x, a, b, c, d, hx, ha, hb, hc, hd, hsum⟩ := hnext _ hge ht
        have hback {m : Nat} {y : Word} (hm : m < n + 16) (hy : (schedOf blk)[m]? = some y) : w[m] = y :=
          Option.some.inj ((ih m hm (by omega)).symm.trans hy)
        have ha : w[n + 14] = a := hback (by omega) ha
        have hb : w[n + 9] = b := hback (by omega) hb
        have hc : w[n + 1] = c := hback (by omega) hc
        have hd : w[n] = d := hback (by omega) hd
        rw [hx, hrec ⟨n, hn⟩, ha, hb, hc, hd]
        exact congrArg some (BitVec.eq_of_toNat_eq (hsum.trans (add_four_toNat ..).symm))
  refine List.ext_getElem? fun t => ?_
  rcases Nat.lt_or_ge t 64 with hlt | hge
  · rw [hword t hlt]; simp
  · rw [List.getElem?_eq_none (by simpa using hge), List.getElem?_eq_none (by omega)]

/-! ### The last turn of a block (R183, R188) -/

/-- At MSTEP 113 the schedule file is complete and all 64 rounds are done, so FEEDFWD completes Compress. -/
theorem BlockInv.feedForward_eq_compress {s : State} (h : BlockInv s) (hbusy : s.phase = .busy) (hm : s.mstep = 113#7) :
    feedForward s.hash s.v = compress s.hash (schedOf s.blk) := by
  have hstep : s.mstep.toNat = 113 := by rw [hm]; rfl
  have hw : s.w.toList = schedOf s.blk :=
    toList_eq_schedOf (h.loaded hbusy (by omega)) fun n => h.expanded hbusy n (by omega)
  have hall : (kTable.zip (schedOf s.blk)).length ≤ 113 - 49 := by
    rw [List.length_zip, length_kTable, length_schedOf]; decide
  have hv := h.rounds hbusy (by omega)
  rw [hw, hstep, List.take_of_length_le hall] at hv
  rw [compress, ← hv]

/-- The FEEDFWD turn of a block. -/
theorem BlockInv.step_finish {s : State} (h : BlockInv s) (hbusy : s.phase = .busy) (hm : s.mstep = 113#7)
    (hin : s.inputs = [] ∨ ∃ rest, s.inputs = .core :: rest) : step s = .next { consume s with
      hash := compress s.hash (schedOf s.blk), blkdone := s.blkdone + 1#64, mstep := 0#7
      phase := if s.blkdone + 1#64 = s.blkcount then .done else .ready } := by
  rw [step_of_run ((fetch_core hin).trans (fetchCore_feedfwd hbusy hm)), exec_feedfwd,
    ← h.feedForward_eq_compress hbusy hm]
  rfl

/-- Settles O54. -/
theorem finishedBlockIsCompressed : Obligations.FinishedBlockIsCompressed := fun _ h hbusy hm hin =>
  ⟨_, h.step_finish hbusy hm hin, rfl, rfl, rfl, rfl, rfl⟩

/-! ### A block left alone (R190, log 4) -/

/-- Every micro-op but FEEDFWD writes the working registers, the temporaries, W, MSTEP and the trace, and nothing
else. -/
theorem MicroOpAt.exec_frame {s : State} {i : Instr} (hi : MicroOpAt s.mstep.toNat i) (hm : s.mstep.toNat < 113) :
    ∃ v t1 t2 w tr, exec i s = .next { s with
      v := v, t1 := t1, t2 := t2, w := w, mstep := s.mstep + 1#7, trace := tr } := by
  generalize hn : s.mstep.toNat = n at hi hm
  cases hi with
  | load =>
    have hone : s.mstep + 1#7 = 1#7 := by rw [eq_ofNat_of_toNat_eq hn.symm]; rfl
    exact ⟨_, _, _, _, _, hone ▸ exec_load s⟩
  | expand idx => exact ⟨_, _, _, _, _, exec_expand idx s⟩
  | round i => exact ⟨_, _, _, _, _, exec_round i s⟩
  | feedfwd => omega

theorem consume_of_nil {s : State} (h : s.inputs = []) : consume s = s := by
  cases s
  cases h
  rfl

theorem step_of_microOpAt_of_nil {s : State} {i : Instr} (hin : s.inputs = []) (hbusy : s.phase = .busy)
    (hi : MicroOpAt s.mstep.toNat i) : step s = exec i s := by
  rw [step_of_microOpAt (.inl hin) hbusy hi, consume_of_nil hin]

theorem runSteps_succ_of_last {n : Nat} {s t u : State} (h : runSteps n s = some t) (hstep : step t = .next u) :
    runSteps (n + 1) s = some u := by
  induction n generalizing s with
  | zero =>
    obtain rfl : s = t := Option.some.inj h
    rw [runSteps_of_step 0 hstep, runSteps_zero]
  | succ n ih =>
    cases hs : step s with
    | next s' =>
      rw [runSteps_of_step _ hs] at h ⊢
      exact ih h
    | fault r => cases r
    | refused r => simp [runSteps, hs] at h

/-- `n` micro-steps into a block that started in state `s`. -/
def InBlock (n : Nat) (s t : State) : Prop :=
  ∃ v t1 t2 w tr, t = { s with v := v, t1 := t1, t2 := t2, w := w, mstep := BitVec.ofNat 7 n, trace := tr }

/-- From the start of a block the sequencer performs one micro-op a step, up to FEEDFWD. -/
theorem runSteps_block {s : State} (hbusy : s.phase = .busy) (hm : s.mstep = 0#7) (hin : s.inputs = []) {n : Nat}
    (hn : n ≤ 113) : ∃ t, runSteps n s = some t ∧ BlockInv t ∧ InBlock n s t := by
  induction n with
  | zero => exact ⟨s, rfl, .of_mstep_zero hm, s.v, s.t1, s.t2, s.w, s.trace, by rw [← hm]⟩
  | succ n ih =>
    obtain ⟨t, hrun, hinv, v, t1, t2, w, tr, rfl⟩ := ih (by omega)
    set t : State := { s with v := v, t1 := t1, t2 := t2, w := w, mstep := BitVec.ofNat 7 n, trace := tr }
    have hmt : t.mstep.toNat = n := (BitVec.toNat_ofNat ..).trans (Nat.mod_eq_of_lt (by omega))
    obtain ⟨i, hi⟩ := exists_microOpAt (n := t.mstep.toNat) (by omega)
    obtain ⟨v', t1', t2', w', tr', hexec⟩ := hi.exec_frame (by omega)
    have hstep : step t = exec i t := step_of_microOpAt_of_nil hin hbusy hi
    refine ⟨_, runSteps_succ_of_last hrun (hstep.trans hexec),
      stepKeepsBlockInvariant _ _ hinv (hstep.trans hexec), v', t1', t2', w', tr', ?_⟩
    rw [BitVec.ofNat_add]

/-- Settles O36: after 49 micro-steps LOAD and every EXPAND have been performed, and no ROUND. -/
theorem scheduleFileHoldsSchedule : Obligations.ScheduleFileHoldsSchedule := by
  intro s hbusy hm hin
  obtain ⟨t, hrun, hinv, v, t1, t2, w, tr, rfl⟩ := runSteps_block hbusy hm hin (n := 49) (by decide)
  have hexpanded := fun n : Fin 48 => hinv.expanded hbusy n (Nat.succ_le_succ (Nat.succ_le_of_lt n.isLt))
  refine ⟨_, hrun, hbusy, rfl, rfl, rfl, hinv.rounds hbusy (by simp), hinv.loaded hbusy (by simp), fun n => ?_⟩
  rw [hexpanded n, add_four_toNat]

/-- Settles O37: 113 micro-steps by `runSteps_block`, and FEEDFWD. -/
theorem blockCompressesIn114Steps : Obligations.BlockCompressesIn114Steps := by
  intro s hbusy hm hin
  refine ⟨fun n hn => ?before, ?after⟩
  case before =>
    obtain ⟨t, hrun, -, v, t1, t2, w, tr, rfl⟩ := runSteps_block hbusy hm hin (n := n) (by omega)
    exact ⟨_, hrun, hbusy, (BitVec.toNat_ofNat ..).trans (Nat.mod_eq_of_lt (by omega)), rfl⟩
  case after =>
    obtain ⟨t, hrun, hinv, v, t1, t2, w, tr, rfl⟩ := runSteps_block hbusy hm hin (n := 113) (by decide)
    exact ⟨_, runSteps_succ_of_last hrun (hinv.step_finish hbusy rfl (.inl hin)),
      rfl, rfl, rfl, rfl, rfl, rfl, rfl, rfl⟩

end Sys2Proof.Machine
end

/-! PROOFS. Non-interference: the trace never alters the result (42_compress.md R189), and the accesses of the host
during a block do not reach it (20_memory.md R83). -/

section
namespace Sys2Proof.Machine

open Sys2Proof

/-! ### The state without what the trace can reach -/

/-- A state with TRACE_ON, the trace storage and the last word read taken away, the three that `sameButTrace` leaves
free. -/
def eraseTrace (s : State) : State := { s.untraced with rdata := 0#32 }

theorem sameButTrace_iff_eraseTrace_eq {s t : State} : sameButTrace s t ↔ eraseTrace s = eraseTrace t := Iff.rfl

theorem sameButTrace_unlessBusy {f : State → State} {s : State} (hf : sameButTrace (f s) (f (eraseTrace s))) :
    sameButTrace (unlessBusy f s) (unlessBusy f (eraseTrace s)) := by
  by_cases hbusy : s.phase = .busy
  · rw [unlessBusy_of_busy f hbusy, unlessBusy_of_busy f (s := eraseTrace s) hbusy]
    rfl
  · rwa [unlessBusy_of_not_busy f hbusy, unlessBusy_of_not_busy f (s := eraseTrace s) hbusy]

theorem sameButTrace_startRun (trace : Bool) (s : State) :
    sameButTrace (startRun trace s) (startRun trace (eraseTrace s)) := by
  by_cases hbusy : s.phase = .busy
  · rw [startRun_of_busy trace hbusy, startRun_of_busy trace (s := eraseTrace s) hbusy]
    rfl
  by_cases hlen : 2 ^ 61 ≤ s.msglen.toNat
  · rw [startRun_of_tooLarge trace hbusy hlen, startRun_of_tooLarge trace (s := eraseTrace s) hbusy hlen]
    rfl
  rw [Nat.not_le] at hlen
  by_cases hcap : trace = true ∧ s.cfg.traceCap < (s.msglen.toNat + 8) / 64 + 1
  · obtain ⟨rfl, hcap⟩ := hcap
    rw [startRun_of_overCapacity hbusy hlen hcap, startRun_of_overCapacity (s := eraseTrace s) hbusy hlen hcap]
    rfl
  · have hfits : trace = true → (s.msglen.toNat + 8) / 64 + 1 ≤ s.cfg.traceCap := by simpa using hcap
    rw [startRun_of_fits hbusy hlen hfits, startRun_of_fits (s := eraseTrace s) hbusy hlen hfits]
    rfl

/-- An instruction has on a state and on the state without the trace the same effect but for the trace. -/
theorem exists_exec_eraseTrace {i : Instr} (hi : ∀ w, i ≠ .wrCmd w) (s : State) :
    ∃ t u, exec i s = .next t ∧ exec i (eraseTrace s) = .next u ∧ sameButTrace t u := by
  cases i with
  | wrCmd w => exact absurd rfl (hi w)
  | wrBlk | wrMsglen => exact ⟨_, _, rfl, rfl, sameButTrace_unlessBusy rfl⟩
  | start => exact ⟨_, _, rfl, rfl, sameButTrace_startRun false s⟩
  | startT => exact ⟨_, _, rfl, rfl, sameButTrace_startRun true s⟩
  | rsv0B we | rsv0C0F we | rsv282F we | rsv3233 we | rsv3437 we | rsv383F we =>
    cases we <;> exact ⟨_, _, rfl, rfl, rfl⟩
  | block =>
    cases hphase : s.phase with
    | busy => exact ⟨_, _, exec_block_of_busy hphase, exec_block_of_busy hphase, rfl⟩
    | ready => exact ⟨_, _, exec_block_of_ready hphase, exec_block_of_ready hphase, rfl⟩
    | idle => exact ⟨_, _, exec_block_of_idle_or_done (.inl hphase), exec_block_of_idle_or_done (.inl hphase), rfl⟩
    | done => exact ⟨_, _, exec_block_of_idle_or_done (.inr hphase), exec_block_of_idle_or_done (.inr hphase), rfl⟩
  | load => exact ⟨_, _, exec_load s, exec_load _, rfl⟩
  | expand idx => exact ⟨_, _, exec_expand idx s, exec_expand idx _, rfl⟩
  | round n => exact ⟨_, _, exec_round n s, exec_round n _, rfl⟩
  | _ => exact ⟨_, _, rfl, rfl, rfl⟩

theorem exec_sameButTrace {i : Instr} {s s' t : State} (h : sameButTrace s s') (hexec : exec i s = .next t) :
    ∃ t', exec i s' = .next t' ∧ sameButTrace t t' := by
  rw [← exec_effective] at hexec ⊢
  obtain ⟨t1, u, ht1, hu, hsame⟩ := exists_exec_eraseTrace (effective_ne_wrCmd i) s
  obtain ⟨t', u', ht', hu', hsame'⟩ := exists_exec_eraseTrace (effective_ne_wrCmd i) s'
  obtain rfl : t1 = t := Host.Outcome.next.inj (ht1.symm.trans hexec)
  rw [← sameButTrace_iff_eraseTrace_eq.mp h] at hu'
  obtain rfl : u = u' := Host.Outcome.next.inj (hu.symm.trans hu')
  exact ⟨t', ht', hsame.trans hsame'.symm⟩

theorem step_sameButTrace {s s' t : State} (h : sameButTrace s s') (hstep : step s = .next t) :
    ∃ t', step s' = .next t' ∧ sameButTrace t t' := by
  have hfetch := fetch_sameButTrace h
  have hconsume : sameButTrace (consume s) (consume s') := congrArg consume h
  rcases step_next_cases hstep with ⟨i, hrun, hexec⟩ | ⟨d, hreset, rfl⟩ | ⟨hwait, rfl⟩
  · rw [step_of_run (hfetch.trans hrun)]
    exact exec_sameButTrace hconsume hexec
  · refine ⟨hardReset d (consume s'), by simp [step, hfetch.trans hreset], ?_⟩
    obtain ⟨on, tr, x, hs'⟩ := (sameButTrace_iff _ _).mp hconsume
    rw [hs']
    rfl
  · exact ⟨_, step_of_wait (hfetch.trans hwait), hconsume⟩

/-- A run of at least one step goes on from its first step. -/
theorem exists_step_of_runSteps {n : Nat} {s t : State} (h : runSteps (n + 1) s = some t) :
    ∃ s', step s = .next s' ∧ runSteps n s' = some t := by
  unfold runSteps at h
  split at h
  · exact ⟨_, ‹_›, h⟩
  · cases h
  · cases h

theorem runSteps_sameButTrace {n : Nat} {s s' t : State} (h : sameButTrace s s') (hrun : runSteps n s = some t) :
    ∃ t', runSteps n s' = some t' ∧ sameButTrace t t' := by
  induction n generalizing s s' with
  | zero =>
    obtain rfl : s = t := Option.some.inj hrun
    exact ⟨s', rfl, h⟩
  | succ n ih =>
    obtain ⟨s1, hstep, hrest⟩ := exists_step_of_runSteps hrun
    obtain ⟨s1', hstep', hsame⟩ := step_sameButTrace h hstep
    rw [runSteps_of_step n hstep']
    exact ih hsame hrest

/-! ### START.T against START -/

theorem untraced_startRun {s : State} (h : s.phase = .busy ∨ 2 ^ 61 ≤ s.msglen.toNat ∨
    (padInfo s.msglen).blockCount.toNat ≤ s.cfg.traceCap) :
    (startRun true s).untraced = (startRun false s).untraced := by
  rcases startRun_cases true s with ⟨hbusy, hstart⟩ | ⟨hfree, hlen, hstart⟩ | ⟨hfree, hlen, -, hover, -⟩ |
    ⟨hfree, hlen, -, hstart⟩
  · rw [hstart, startRun_of_busy false hbusy]; rfl
  · rw [hstart, startRun_of_tooLarge false hfree hlen]
  · rcases h with h | h | h
    · exact absurd h hfree
    · omega
    · omega
  · rw [hstart, startRun_of_fits hfree hlen (by simp)]; rfl

/-! ### The machine with its trace taken away, left alone -/

theorem MicroOpAt.exec_untraced {n : Nat} {i : Instr} (hi : MicroOpAt n i) (s : State) :
    ∃ t, exec i s = .next t ∧ exec i s.untraced = .next t.untraced ∧ t.inputs = s.inputs := by
  have hnone (es : List (TraceAddr × Word)) : (record es s.untraced).trace = [] := by
    rw [record_untraced es s.untraced rfl]; rfl
  cases hi with
  | load => exact ⟨_, exec_load s, by rw [exec_load, hnone]; rfl, rfl⟩
  | expand idx => exact ⟨_, exec_expand idx s, by rw [exec_expand, hnone]; rfl, rfl⟩
  | round i => exact ⟨_, exec_round i s, by rw [exec_round, hnone]; rfl, rfl⟩
  | feedfwd => exact ⟨_, exec_feedfwd s, rfl, rfl⟩

theorem step_untraced {s t : State} (hin : s.inputs = []) (h : step s = .next t) :
    step s.untraced = .next t.untraced ∧ t.inputs = [] := by
  have hin' : s.untraced.inputs = [] := hin
  have hfetch : fetchCore s = fetch s := (fetch_core (.inl hin)).symm
  rcases fetchCore_cases s with ⟨hfree, hwait⟩ | ⟨hbusy, i, hi, hrun⟩ | ⟨-, hrefuse⟩
  · rw [step_of_wait (hfetch.symm.trans hwait)] at h
    obtain rfl : consume s = t := Host.Outcome.next.inj h
    exact ⟨step_of_wait ((fetch_core (.inl hin')).trans (fetchCore_not_busy hfree)), by simp [consume, hin]⟩
  · obtain ⟨t', hexec, hexec', hinputs⟩ := hi.exec_untraced s
    rw [step_of_microOpAt_of_nil hin hbusy hi] at h
    obtain rfl : t' = t := Host.Outcome.next.inj (hexec.symm.trans h)
    exact ⟨(step_of_microOpAt_of_nil hin' hbusy hi).trans hexec', hinputs.trans hin⟩
  · rw [step_of_refuse (hfetch.symm.trans hrefuse)] at h
    cases h

theorem runSteps_untraced {n : Nat} {s t : State} (hin : s.inputs = []) (h : runSteps n s = some t) :
    runSteps n s.untraced = some t.untraced := by
  induction n generalizing s with
  | zero => exact congrArg (Option.map State.untraced) h
  | succ n ih =>
    obtain ⟨s', hstep, hrest⟩ := exists_step_of_runSteps h
    obtain ⟨hstep', hin'⟩ := step_untraced hin hstep
    rw [runSteps_of_step n hstep']
    exact ih hin' hrest

/-- Settles O38: the four clauses are the lemmas above. -/
theorem traceNeverAltersTheResult : Obligations.TraceNeverAltersTheResult :=
  ⟨fun _ _ _ => step_sameButTrace, fun _ _ _ _ => runSteps_sameButTrace,
    fun s h => ⟨_, _, exec_startT s, exec_start s, untraced_startRun h⟩, fun _ _ _ => runSteps_untraced⟩

/-! ### The block does not see the host (R83) -/

/-- The states that agree on the block: they may differ in ERR, TRIDX and the model's own fields. -/
theorem sameBlock_iff (s t : State) : sameBlock s t ↔ ∃ err tridx inputs rdata aluOut,
    t = { s with err := err, tridx := tridx, inputs := inputs, rdata := rdata, aluOut := aluOut } := by
  constructor
  · rintro ⟨h1, h2, h3, h4, h5, h6, h7, h8, h9, h10, h11, h12, h13, h14, h15⟩
    refine ⟨t.err, t.tridx, t.inputs, t.rdata, t.aluOut, ?_⟩
    rw [← h1, ← h2, ← h3, ← h4, ← h5, ← h6, ← h7, ← h8, ← h9, ← h10, ← h11, ← h12, ← h13, ← h14, ← h15]
  · rintro ⟨err, tridx, inputs, rdata, aluOut, rfl⟩
    exact ⟨rfl, rfl, rfl, rfl, rfl, rfl, rfl, rfl, rfl, rfl, rfl, rfl, rfl, rfl, rfl⟩

theorem sameBlock_trans {s t u : State} (h : sameBlock s t) (h' : sameBlock t u) : sameBlock s u := by
  obtain ⟨_, _, _, _, _, rfl⟩ := (sameBlock_iff s t).mp h
  obtain ⟨_, _, _, _, _, rfl⟩ := (sameBlock_iff _ u).mp h'
  exact (sameBlock_iff s _).mpr ⟨_, _, _, _, _, rfl⟩

/-- Recording depends on what `sameBlock` compares. -/
theorem record_trace_congr (es : List (TraceAddr × Word)) {s t : State} (h : sameBlock s t) :
    (record es t).trace = (record es s).trace := by
  obtain ⟨err, tridx, inputs, rdata, aluOut, rfl⟩ := (sameBlock_iff s t).mp h
  unfold record
  split <;> rfl

/-- A micro-op has the same effect on a block whatever the host did outside it. -/
theorem MicroOpAt.exec_sameBlock {n : Nat} {i : Instr} (hi : MicroOpAt n i) {s t : State} (h : sameBlock s t) :
    ∃ s' t', exec i s = .next s' ∧ exec i t = .next t' ∧ sameBlock s' t' ∧ s'.cfg = s.cfg ∧
      s'.inputs = s.inputs ∧ t'.inputs = t.inputs := by
  have htrace := fun es => record_trace_congr es h
  obtain ⟨err, tridx, inputs, rdata, aluOut, rfl⟩ := (sameBlock_iff s t).mp h
  cases hi with
  | load =>
    exact ⟨_, _, exec_load s, exec_load _, (sameBlock_iff _ _).mpr ⟨_, _, _, _, _, by rw [htrace]⟩, rfl, rfl, rfl⟩
  | expand idx =>
    exact ⟨_, _, exec_expand idx s, exec_expand idx _, (sameBlock_iff _ _).mpr ⟨_, _, _, _, _, by rw [htrace]⟩,
      rfl, rfl, rfl⟩
  | round i =>
    exact ⟨_, _, exec_round i s, exec_round i _, (sameBlock_iff _ _).mpr ⟨_, _, _, _, _, by rw [htrace]; rfl⟩,
      rfl, rfl, rfl⟩
  | feedfwd =>
    exact ⟨_, _, exec_feedfwd s, exec_feedfwd _, (sameBlock_iff _ _).mpr ⟨_, _, _, _, _, rfl⟩, rfl, rfl, rfl⟩

/-- While BUSY every effect but those of SRESET and of a micro-op leaves the block alone. -/
theorem Effect.sameBlock_of_busy {i : Instr} {s t : State} (h : Effect i s t) (hbusy : s.phase = .busy)
    (hreset : i ≠ .sreset) (hhost : (encode i).format ≠ .u) : sameBlock s t ∧ t.inputs = s.inputs := by
  cases h with
  | none | read | alu | tridx | refused | illegal => exact ⟨(sameBlock_iff _ _).mpr ⟨_, _, _, _, _, rfl⟩, rfl⟩
  | blk hfree | msglen hfree | startFailed hfree | opened hfree => exact absurd hbusy hfree
  | badSequence hphase => rcases hphase with h | h <;> rw [hbusy] at h <;> cases h
  | block hready => rw [hbusy] at hready; cases hready
  | sreset => exact absurd rfl hreset
  | load | expand | round | feedfwd => exact absurd rfl hhost

/-- An access by word address or by byte address, other than SRESET (log 12). -/
def HostAccess (cfg : Config) (e : Input) : Prop :=
  (∃ code w, e = .port code w ∧ decodeBus code w ≠ .wrCmd 0x0000000F#32) ∨
  ∃ we addr w waddr, e = .bus we addr w ∧ windowAddr cfg addr = some waddr ∧
    decodeBus (busCode we waddr) w ≠ .wrCmd 0x0000000F#32

theorem HostAccess.fetch_eq {s : State} {e : Input} {rest : List Input} (he : HostAccess s.cfg e)
    (hin : s.inputs = e :: rest) : ∃ code w, fetch s = .run (decodeBus code w) ∧
      decodeBus code w ≠ .wrCmd 0x0000000F#32 := by
  rcases he with ⟨code, w, rfl, hne⟩ | ⟨we, addr, w, waddr, rfl, haddr, hne⟩
  · exact ⟨code, w, fetch_port hin, hne⟩
  · exact ⟨busCode we waddr, w, (fetch_bus hin).trans (fetchBus_of_some haddr), hne⟩

/-- A host access while BUSY leaves the block alone. -/
theorem HostAccess.step_sameBlock {s : State} {e : Input} {rest : List Input} (he : HostAccess s.cfg e)
    (hin : s.inputs = e :: rest) (hbusy : s.phase = .busy) :
    ∃ t, step s = .next t ∧ sameBlock s t ∧ t.inputs = rest := by
  obtain ⟨code, w, hfetch, hne⟩ := he.fetch_eq hin
  obtain ⟨-, hformat, -⟩ := encode_decodeBus code w
  generalize decodeBus code w = i at hfetch hne hformat
  obtain ⟨t, hexec, heffect⟩ := exists_exec_next i (consume s)
  have hreset : effective i ≠ .sreset := fun hi => by
    rcases eq_of_effective_sreset hi with rfl | rfl
    · cases hformat
    · exact hne rfl
  have hhost : (encode (effective i)).format ≠ .u := fun hu => by
    rw [← eq_of_effective (i := i) rfl (by rw [hu]; rfl), hformat] at hu
    cases hu
  obtain ⟨hsame, hinputs⟩ := heffect.sameBlock_of_busy hbusy hreset hhost
  exact ⟨t, (step_of_run hfetch).trans hexec, hsame, by rw [hinputs, consume_of_inputs hin]⟩

/-- A turn of the sequencer moves two states that agree on a block in progress alike. -/
theorem step_core_sameBlock {s t : State} {rest : List Input} (h : sameBlock s t) (hbusy : s.phase = .busy)
    (hm : s.mstep.toNat ≤ 113) (hs : s.inputs = []) (ht : t.inputs = .core :: rest) :
    ∃ s' t', step s = .next s' ∧ step t = .next t' ∧ sameBlock s' t' ∧ s'.cfg = s.cfg ∧ s'.inputs = [] ∧
      t'.inputs = rest ∧ (s.mstep.toNat < 113 → s'.mstep.toNat = s.mstep.toNat + 1 ∧ s'.phase = .busy) := by
  obtain ⟨-, -, -, -, -, -, -, hphase, hmstep, -⟩ := id h
  obtain ⟨i, hi⟩ := exists_microOpAt hm
  obtain ⟨s', t', hs', ht', hsame, hcfg, hsin, htin⟩ := hi.exec_sameBlock (s := consume s) (t := consume t) h
  obtain ⟨s1, hs1, hadvances, -⟩ := MicroOpAt.exec_advances (s := consume s) hbusy hi
  obtain rfl : s1 = s' := Host.Outcome.next.inj (hs1.symm.trans hs')
  refine ⟨s1, t', (step_of_microOpAt (.inl hs) hbusy hi).trans hs',
    (step_of_microOpAt (.inr ⟨rest, ht⟩) (hphase.trans hbusy) (hmstep ▸ hi)).trans ht', hsame, hcfg, ?_, ?_, hadvances⟩
  · rw [hsin, consume_of_nil hs, hs]
  · rw [htin, consume_of_inputs ht]

/-- Two states that agree on a block in progress, one of them left alone, agree after as many turns of the sequencer,
whatever the host does to the other between them. -/
theorem runSteps_interleaved {es : List Input} {s t : State} (h : sameBlock s t) (hbusy : s.phase = .busy)
    (hm : s.mstep.toNat + es.count .core ≤ 113) (hs : s.inputs = []) (ht : t.inputs = es ++ [.core])
    (hes : ∀ e ∈ es, e = .core ∨ HostAccess s.cfg e) :
    ∃ s' t', runSteps (es.count .core + 1) s = some s' ∧ runSteps (es.length + 1) t = some t' ∧ sameBlock s' t' := by
  induction es generalizing s t with
  | nil =>
    obtain ⟨s', t', hs', ht', hsame, -⟩ := step_core_sameBlock h hbusy hm hs ht
    exact ⟨s', t', runSteps_of_step 0 hs', runSteps_of_step 0 ht', hsame⟩
  | cons e es ih =>
    have hrest : ∀ e ∈ es, e = .core ∨ HostAccess s.cfg e := fun e he => hes e (List.mem_cons_of_mem _ he)
    by_cases he : e = .core
    · subst he
      rw [List.count_cons_self] at hm ⊢
      obtain ⟨s1, t1, hs1, ht1, hsame, hcfg, hsin, htin, hnext⟩ := step_core_sameBlock h hbusy (by omega) hs ht
      obtain ⟨hm1, hbusy1⟩ := hnext (by omega)
      rw [runSteps_of_step _ hs1, List.length_cons, runSteps_of_step _ ht1]
      exact ih hsame hbusy1 (by omega) hsin htin (hcfg ▸ hrest)
    · rw [List.count_cons_of_ne he] at hm ⊢
      obtain ⟨-, -, -, -, -, -, -, hphase, -⟩ := id h
      have hcfg : t.cfg = s.cfg := h.1
      have haccess : HostAccess t.cfg e := hcfg ▸ (hes e List.mem_cons_self).resolve_left he
      obtain ⟨t1, ht1, hsame, htin⟩ := haccess.step_sameBlock ht (hphase.trans hbusy)
      rw [List.length_cons, runSteps_of_step _ ht1]
      exact ih (sameBlock_trans h hsame) hbusy hm hs htin hrest

/-- Settles O39: the comparison run starts from the same state, but for its events. -/
theorem interleavingDoesNotMatter : Obligations.InterleavingDoesNotMatter := by
  intro s es hbusy hm hes
  obtain ⟨t', t, ht', ht, hsame⟩ := runSteps_interleaved (s := { s with inputs := [] })
    (t := { s with inputs := es ++ [.core] }) ((sameBlock_iff _ _).mpr ⟨_, _, _, _, _, rfl⟩) hbusy hm rfl rfl hes
  exact ⟨t, t', ht, ht', hsame⟩

end Sys2Proof.Machine
end

/-! PROOFS. The registers that hold plain data (10_state.md R41 to R50), the linearity of the sigma functions
(40_alu.md R139 to R142), and the constants as roots of primes (42_compress.md R180, 10_state.md R27). -/

section
namespace Sys2Proof.Machine

open Sys2Proof

/-! ### Plain reads -/

theorem half_toNat (hi : Bool) (x : BitVec 64) :
    (half hi x).toNat = if hi then x.toNat / 2 ^ 32 else x.toNat % 2 ^ 32 := by
  cases hi with
  | true => exact half_high_toNat x
  | false => exact half_low_toNat x

theorem capWord_toNat (s : State) : (capWord s).toNat = s.cfg.traceCap := by
  have hcap := Config.traceCap_le s.cfg
  rw [capWord, BitVec.toNat_ofNat, Nat.mod_eq_of_lt (by omega)]

/-- Settles O15: each read answers its register's word. -/
theorem plainReads : Obligations.PlainReads := fun s hi t k =>
  ⟨exec_rdId s, exec_rdCmd s, ⟨_, exec_rdMsglen hi s, half_toNat hi _⟩, ⟨_, exec_rdBlkcount hi s, half_toNat hi _⟩,
    ⟨_, exec_rdBlkdone hi s, half_toNat hi _⟩,
    ⟨_, exec_rdCap s, capWord_toNat s, capWord_toNat s ▸ Nat.succ_pos _, capWord_toNat s ▸ Config.traceCap_le s.cfg⟩,
    exec_rdBlk t s, exec_rdHash k s⟩

/-! ### Linearity over XOR -/

theorem rotr_xor (x y : Word) (n : Fin 32) : rotr (x ^^^ y) n = rotr x n ^^^ rotr y n := by
  refine BitVec.eq_of_getLsbD_eq fun j hj => ?_
  rw [BitVec.getLsbD_xor, rotr_getLsbD _ n hj, rotr_getLsbD _ n hj, rotr_getLsbD _ n hj, BitVec.getLsbD_xor]

theorem shr_xor (x y : Word) (n : Fin 32) : shr (x ^^^ y) n = shr x n ^^^ shr y n :=
  BitVec.ushiftRight_xor_distrib ..

/-- XOR of three operands is linear in all of them at once. -/
theorem xor32_three_xor (a b c a' b' c' : Word) :
    xor32 [a ^^^ a', b ^^^ b', c ^^^ c'] = xor32 [a, b, c] ^^^ xor32 [a', b', c'] := by
  simp only [xor32_three]
  ac_rfl

/-- Settles O47: a sigma function is the XOR of three functions that are linear. -/
theorem sigmasAreLinear : Obligations.SigmasAreLinear := by
  refine fun x y n => ⟨rotr_xor x y n, ?_, ?_, ?_, ?_⟩
  · simp only [bsig0, rotr_xor, xor32_three_xor]
  · simp only [bsig1, rotr_xor, xor32_three_xor]
  · simp only [ssig0, rotr_xor, shr_xor, xor32_three_xor]
  · simp only [ssig1, rotr_xor, shr_xor, xor32_three_xor]

/-! ### Roots of primes -/

/-- The first 64 primes. -/
def firstPrimes : List Nat :=
  [2, 3, 5, 7, 11, 13, 17, 19, 23, 29, 31, 37, 41, 43, 47, 53, 59, 61, 67, 71, 73, 79, 83, 89, 97, 101, 103, 107, 109,
   113, 127, 131, 137, 139, 149, 151, 157, 163, 167, 173, 179, 181, 191, 193, 197, 199, 211, 223, 227, 229, 233, 239,
   241, 251, 257, 263, 269, 271, 277, 281, 283, 293, 307, 311]

theorem filter_range_eq_firstPrimes : ((List.range 312).filter fun n =>
    decide (2 ≤ n) && (List.range n).all fun m => decide (m < 2) || n % m != 0) = firstPrimes := by
  decide +kernel

/-- The integer part of the e-th root of p: how many positive numbers have an e-th power up to p. -/
def rootFloor (e p : Nat) : Nat := (List.range p).countP fun r => (r + 1) ^ e ≤ p

/-- Is `frac` the first 32 bits of the fractional part of the e-th root of p? -/
def isRootFraction (e p : Nat) (frac : Word) : Bool :=
  decide ((rootFloor e p * 2 ^ 32 + frac.toNat) ^ e ≤ p * 2 ^ (32 * e)) &&
    decide (p * 2 ^ (32 * e) < (rootFloor e p * 2 ^ 32 + frac.toNat + 1) ^ e)

theorem isRootFraction_bounds {e p : Nat} {frac : Word} (h : isRootFraction e p frac = true) :
    (rootFloor e p * 2 ^ 32 + frac.toNat) ^ e ≤ p * 2 ^ (32 * e) ∧
      p * 2 ^ (32 * e) < (rootFloor e p * 2 ^ 32 + frac.toNat + 1) ^ e := by
  simpa [isRootFraction] using h

theorem isRootFraction_k : ∀ i : Fin 64, ∃ p ∈ firstPrimes[i.val]?, isRootFraction 3 p (k i) = true := by
  decide +kernel

theorem isRootFraction_h0 : ∀ i : Fin 8, ∃ p ∈ firstPrimes[i.val]?, isRootFraction 2 p h0[i] = true := by
  decide +kernel

/-- Settles O48: the sieve gives the list of primes, and each constant is checked against the bounds of its root. -/
theorem constantsAreRootsOfPrimes : Obligations.ConstantsAreRootsOfPrimes := by
  unfold Obligations.ConstantsAreRootsOfPrimes
  rw [filter_range_eq_firstPrimes]
  refine ⟨rfl, fun i => ?_, fun i => ?_⟩
  · obtain ⟨p, hp, hroot⟩ := isRootFraction_k i
    exact ⟨p, rootFloor 3 p, hp, isRootFraction_bounds hroot⟩
  · obtain ⟨p, hp, hroot⟩ := isRootFraction_h0 i
    exact ⟨p, rootFloor 2 p, hp, isRootFraction_bounds hroot⟩

end Sys2Proof.Machine
end
